-- ==== Sys2Proof/Word.lean ====
section
/-! DEFINITION. The widths the spec names (00_scope.md R9): bytes, 16-bit registers, 32-bit words. -/

namespace Sys2Proof

/-- `u8`: a byte of a frame or buffer, read as unsigned (00_scope.md R9). -/
abbrev Byte := BitVec 8

/-- `u16`: a register value, `result` or a checksum. -/
abbrev Half := BitVec 16

/-- `u32`: an operation word or a value of the time base. -/
abbrev Word := BitVec 32

end Sys2Proof
end

