-- ==== Sys2Proof/Config.lean ====
section
/-! DEFINITION. What an implementation fixes: the parameters of 00_scope.md R7 and the field layout of
42_decode.md R170 and R171, whose 13 OPEN entries are an opaque constant. -/

namespace Sys2Proof

/-- The 14 raw fields of a small-status body, in the order of 42_decode.md R170. -/
inductive RawField where
  | power | mode | sleep | ifeel | vLouver | hLouver | fanSpeed | fanTurbo | fanMute
  | clean | health | healthStatus | display | mildew
deriving DecidableEq, Repr

/-- Every raw field once. -/
def RawField.all : List RawField :=
  [.power, .mode, .sleep, .ifeel, .vLouver, .hLouver, .fanSpeed, .fanTurbo, .fanMute,
   .clean, .health, .healthStatus, .display, .mildew]

/-- The 13 raw fields that have a command override register (10_state.md R42): all but HEALTH_STATUS (R43). -/
inductive CmdField where
  | power | mode | sleep | ifeel | vLouver | hLouver | fanSpeed | fanTurbo | fanMute
  | clean | health | display | mildew
deriving DecidableEq, Repr

/-- Every overridable field once. -/
def CmdField.all : List CmdField :=
  [.power, .mode, .sleep, .ifeel, .vLouver, .hLouver, .fanSpeed, .fanTurbo, .fanMute,
   .clean, .health, .display, .mildew]

/-- The raw field an override register overrides (10_state.md R42). -/
def CmdField.raw : CmdField → RawField
  | .power => .power
  | .mode => .mode
  | .sleep => .sleep
  | .ifeel => .ifeel
  | .vLouver => .vLouver
  | .hLouver => .hLouver
  | .fanSpeed => .fanSpeed
  | .fanTurbo => .fanTurbo
  | .fanMute => .fanMute
  | .clean => .clean
  | .health => .health
  | .display => .display
  | .mildew => .mildew

/-- Where a field lies: body byte, lowest bit, width in bits (42_decode.md R170). -/
structure FieldPos where
  byte  : Nat
  lo    : Nat
  width : Nat
deriving DecidableEq, Repr, Inhabited

/-- The bounds of 42_decode.md R170: body byte 2 to 14, the field inside that one byte, at least one bit. -/
def FieldPos.admissible (p : FieldPos) : Bool :=
  decide (2 ≤ p.byte ∧ p.byte ≤ 14 ∧ p.lo ≤ 7 ∧ 1 ≤ p.width ∧ p.lo + p.width ≤ 8)

/-- Two entries share no bit of the same body byte (42_decode.md R171). -/
def FieldPos.disjoint (p q : FieldPos) : Bool :=
  decide (p.byte ≠ q.byte ∨ p.lo + p.width ≤ q.lo ∨ q.lo + q.width ≤ p.lo)

/-- A `LAYOUT`: a position for each raw field (42_decode.md R170). -/
abbrev Layout := RawField → FieldPos

/-- The carry fold of the checksum (41_checksum.md R143). -/
inductive CsumFold where
  | single | iterated
deriving DecidableEq, Repr

/-- The order of the two checksum bytes on the wire (41_checksum.md R145). -/
inductive CsumOrder where
  | lowFirst | highFirst
deriving DecidableEq, Repr

namespace Config

/-- `SOF`, the start marker. -/
def sof : Byte := 0xBB
/-- `HDR_LEN`. -/
def hdrLen : Nat := 8
/-- `MAX_BODY`. -/
def maxBody : Nat := 24
/-- `CSUM_LEN`. -/
def csumLen : Nat := 2
/-- `CAP`, the capacity of RXBUF and of TXBUF. -/
abbrev cap : Nat := 34
/-- `ORIGIN_MODULE`. -/
def originModule : Byte := 0x80
/-- `ORIGIN_UNIT`. No rule of the block reads it (30_encoding.md R101). -/
def originUnit : Byte := 0x00
/-- `RX_TIMEOUT`, in counts of the millisecond time base (90_conflicts.md C1). -/
def rxTimeout : Nat := 150
/-- `CSUM_FOLD`, this block's value. UNVERIFIED (the spec's decision, 92_eei_decisions.md D14), log 2: unsafe. -/
def csumFold : CsumFold := .single
/-- `CSUM_ORDER`, the source's value (41_checksum.md R145, 93_implementation_defined.md I9). UNVERIFIED, log 3: unsafe. -/
def csumOrder : CsumOrder := .lowFirst
/-- `INFO_MIN_LEN`: an info body this long has an echo code. -/
def infoMinLen : Nat := 2
/-- `SMALL_MIN_LEN`. -/
def smallMinLen : Nat := 15
/-- `BIG_MIN_LEN`. -/
def bigMinLen : Nat := 24
/-- `TT_MIN`, tenths of a degree. -/
def ttMin : Nat := 160
/-- `TT_MAX`, tenths of a degree. -/
def ttMax : Nat := 320
/-- `AC_CMD_SET_PARAMS` (00_scope.md R7, 91_not_in_source.md N6). UNVERIFIED, log 4: unsafe. -/
def acCmdSetParams : Byte := 0x01

/-- TT_INT = (2, 3, 5): fixed by the source (42_decode.md R170). -/
def ttInt : FieldPos := ⟨2, 3, 5⟩
/-- TT_HALF = (5, 7, 1): fixed by the source (42_decode.md R170). -/
def ttHalf : FieldPos := ⟨5, 7, 1⟩
/-- V_LOUVER = (2, 0, 3): fixed by the source (42_decode.md R170). -/
def vLouverPos : FieldPos := ⟨2, 0, 3⟩

/-- All 16 entries of a layout, TT_INT and TT_HALF included. -/
def entries (l : Layout) : List FieldPos :=
  ttInt :: ttHalf :: RawField.all.map l

/-- 42_decode.md R170 and R171: every entry admissible, no two sharing a bit, V_LOUVER where the source has it. -/
def wellFormedLayout (l : Layout) : Bool :=
  (entries l).all FieldPos.admissible
    && decide ((entries l).Pairwise (fun p q => FieldPos.disjoint p q = true))
    && l .vLouver == vLouverPos

/-- The OPEN entries of `LAYOUT` (42_decode.md R170, 93_implementation_defined.md I1): a free constant, with no
body, that no proof can see into. DESIGN CHOICE, log 1: safe. -/
opaque openLayout : RawField → FieldPos

/-- The open entries together with the one raw-field entry the source fixes. -/
def openLayoutFixed : Layout
  | .vLouver => vLouverPos
  | f => openLayout f

/-- A well-formed layout that stands in where `openLayout` is none (42_decode.md R171: a model admits only
well-formed ones). It says nothing of any real unit: every well-formed layout is `layout` for some `openLayout`. -/
def standInLayout : Layout
  | .vLouver => vLouverPos
  | .power => ⟨3, 0, 1⟩
  | .mode => ⟨3, 1, 3⟩
  | .sleep => ⟨3, 4, 1⟩
  | .ifeel => ⟨3, 5, 1⟩
  | .hLouver => ⟨4, 0, 3⟩
  | .fanSpeed => ⟨6, 0, 3⟩
  | .fanTurbo => ⟨7, 0, 1⟩
  | .fanMute => ⟨7, 1, 1⟩
  | .clean => ⟨8, 0, 1⟩
  | .health => ⟨8, 1, 1⟩
  | .healthStatus => ⟨8, 2, 1⟩
  | .display => ⟨9, 0, 1⟩
  | .mildew => ⟨9, 1, 1⟩

/-- `LAYOUT`, the block's parameter: some well-formed layout, not known which (42_decode.md R170, R171). -/
def layout : Layout
  | .vLouver => vLouverPos
  | f => if wellFormedLayout openLayoutFixed then openLayoutFixed f else standInLayout f

end Config

end Sys2Proof
end

