-- ==== Sys2Proof/Machine/Checksum.lean ====
section
/-! DEFINITION. The checksum unit (41_checksum.md): the function, the placing of its bytes, and the comparison
that validates a received frame. -/

namespace Sys2Proof.Machine

/-- The sum of a byte sequence read as big-endian 16-bit words, an odd last byte padded with 0x00
(41_checksum.md R141, R142). At most 16 words are summed, so the 32-bit accumulator never wraps. -/
def wordSum : List Byte → Nat
  | [] => 0
  | [a] => a.toNat * 256
  | a :: b :: rest => a.toNat * 256 + b.toNat + wordSum rest

/-- One carry fold of a 32-bit accumulator: bits 31:16 plus bits 15:0 (41_checksum.md R143). -/
def foldOnce (acc : Nat) : Nat :=
  acc / 65536 % 65536 + acc % 65536

/-- The `while F > 0xFFFF` loop of 41_checksum.md R146, on fuel. Two rounds are enough for a 32-bit accumulator. -/
def foldLoop : Nat → Nat → Nat
  | 0, f => f
  | fuel + 1, f => if f > 0xFFFF then foldLoop fuel (foldOnce f) else f

/-- The fold F under each value of `CSUM_FOLD` (41_checksum.md R143). -/
def foldCarry (mode : CsumFold) (acc : Nat) : Nat :=
  match mode with
  | .single => foldOnce acc
  | .iterated => foldLoop 2 (foldOnce acc)

/-- `Checksum(xs)` under a value of `CSUM_FOLD`: the complement of the fold's low 16 bits (41_checksum.md R144, R146). -/
def checksumWith (mode : CsumFold) (xs : List Byte) : Half :=
  BitVec.ofNat 16 (0xFFFF - foldCarry mode (wordSum xs) % 65536)

/-- `Checksum(xs)` of this block. -/
def checksum (xs : List Byte) : Half :=
  checksumWith Config.csumFold xs

/-- `PlaceCsum(C)` under a value of `CSUM_ORDER`: the bytes cs0, cs1 in wire order (41_checksum.md R145, R146). -/
def placeCsumWith (order : CsumOrder) (c : Half) : List Byte :=
  match order with
  | .lowFirst => [c.extractLsb' 0 8, c.extractLsb' 8 8]
  | .highFirst => [c.extractLsb' 8 8, c.extractLsb' 0 8]

/-- `PlaceCsum(C)` of this block. -/
def placeCsum (c : Half) : List Byte :=
  placeCsumWith Config.csumOrder c

/-- The body length a frame's bytes give: byte 6 (30_encoding.md R90, R93). -/
def bodyLen (bytes : List Byte) : Nat :=
  (bytes.getD 6 0x00).toNat

/-- The comparison of `Verify` (41_checksum.md R150, R151): both bytes after the body are those of the checksum
of header and body. -/
def csumMatches (bytes : List Byte) : Bool :=
  placeCsum (checksum (bytes.take (Config.hdrLen + bodyLen bytes)))
    == [bytes.getD (Config.hdrLen + bodyLen bytes) 0x00, bytes.getD (Config.hdrLen + bodyLen bytes + 1) 0x00]

end Sys2Proof.Machine
end

