-- ==== Sys2Proof/Syntax.lean ====
section
/-! DEFINITION. The instructions: one constructor per row of spec/opcode_table.json. The first 15 are the
operations of the operation port (30_encoding.md R82), the other 11 the classes of received wire frame that PARSE
tells apart (30_encoding.md R95). -/

namespace Sys2Proof

/-- The content of a wire frame (30_encoding.md R90): the header bytes other than the start marker and the
length, and the body. The length byte is the body's length and the checksum is computed (41_checksum.md R140). -/
structure Frame where
  /-- header byte 1, unexplored -/
  h1     : Byte
  /-- header byte 2, packet type (30_encoding.md R91) -/
  ptype  : Byte
  /-- header byte 3, origin -/
  origin : Byte
  /-- header byte 4, ping-answer flag -/
  flag   : Byte
  /-- header byte 5, unexplored -/
  h5     : Byte
  /-- header byte 7, unexplored -/
  h7     : Byte
  /-- body bytes 0 to L - 1 -/
  body   : List Byte
deriving DecidableEq, Repr

/-- The frame classes of 30_encoding.md R95. -/
inductive FrameClass where
  | ping | command | infoSetpEcho | infoSmall | infoBig | infoPeriodic | infoOther | infoShort
  | init | unknownVendor | otherType
deriving DecidableEq, Repr

/-- The instructions. An operation carries its operands (30_encoding.md R83); a frame class carries the frame. -/
inductive Instr where
  /-- NOP (44_register_ops.md R220) -/
  | nop
  /-- RXB: deliver one received byte (40_framer.md R112) -/
  | rxb (b : Byte)
  /-- TICK (40_framer.md R121) -/
  | tick
  /-- PARSE (42_decode.md R160) -/
  | parse
  /-- ENC.PONG (43_encode_transmit.md R192) -/
  | encPong
  /-- ENC.REQS (43_encode_transmit.md R193) -/
  | encReqs
  /-- ENC.REQB (43_encode_transmit.md R194) -/
  | encReqb
  /-- ENC.SETC (43_encode_transmit.md R199) -/
  | encSetc
  /-- TXSEND (43_encode_transmit.md R204) -/
  | txsend
  /-- RD: read the register at an address (44_register_ops.md R222) -/
  | rd (a : Byte)
  /-- WR: write a value to the register at an address (44_register_ops.md R223) -/
  | wr (a : Byte) (d : Half)
  /-- CMDCLR (44_register_ops.md R225) -/
  | cmdclr
  /-- TXCLR (43_encode_transmit.md R206) -/
  | txclr
  /-- RXCLR (40_framer.md R123) -/
  | rxclr
  /-- SRST (44_register_ops.md R226) -/
  | srst
  /-- PING: packet type 0x01 (42_decode.md R162) -/
  | ping (f : Frame)
  /-- COMMAND: packet type 0x06 (42_decode.md R163) -/
  | command (f : Frame)
  /-- INFO.SETP_ECHO: info, echo code 0x01 (42_decode.md R165) -/
  | infoSetpEcho (f : Frame)
  /-- INFO.SMALL: info, echo code 0x11 (42_decode.md R175) -/
  | infoSmall (f : Frame)
  /-- INFO.BIG: info, echo code 0x21 (42_decode.md R180) -/
  | infoBig (f : Frame)
  /-- INFO.PERIODIC: info, echo code 0x2C (42_decode.md R180) -/
  | infoPeriodic (f : Frame)
  /-- INFO.other: info, any other echo code (42_decode.md R166) -/
  | infoOther (f : Frame)
  /-- INFO.short: info with no echo code, L < 2 (42_decode.md R167) -/
  | infoShort (f : Frame)
  /-- INIT: packet type 0x09 (42_decode.md R164) -/
  | init (f : Frame)
  /-- UNKNOWN_VENDOR: packet type 0x0B (42_decode.md R164) -/
  | unknownVendor (f : Frame)
  /-- OTHER_TYPE: any other packet type (42_decode.md R164) -/
  | otherType (f : Frame)
deriving DecidableEq, Repr

/-- The two encodings of 30_encoding.md: an operation word, or the bytes of a wire frame in wire order. -/
inductive Code where
  | op (w : Word)
  | frame (bytes : List Byte)
deriving DecidableEq, Repr

end Sys2Proof
end

