-- ==== Sys2Proof/WellFormed.lean ====
section
/-! DEFINITION. Which instructions an encoding exists for: an operation always, since its operands have the widths
of 30_encoding.md R83; a frame class if its frame fits the buffer and is of that class (30_encoding.md R95). -/

namespace Sys2Proof

/-- The body fits a frame: L is 0 to 24 (30_encoding.md R90). -/
def Frame.fits (f : Frame) : Bool :=
  decide (f.body.length ≤ Config.maxBody)

/-- The echo code `body[1]`; it reads as 0x00 when L < 2 (30_encoding.md R95). -/
def Frame.echo (f : Frame) : Byte :=
  f.body.getD 1 0x00

/-- An info frame long enough to have an echo code, with this one. -/
def Frame.infoWith (f : Frame) (code : Byte) : Bool :=
  f.ptype == 0x07 && decide (Config.infoMinLen ≤ f.body.length) && f.echo == code

/-- The checks on an instruction's operands, one arm per row of 30_encoding.md R82 and R95. -/
def Instr.wellFormed : Instr → Bool
  | .nop => true
  | .rxb _ => true
  | .tick => true
  | .parse => true
  | .encPong => true
  | .encReqs => true
  | .encReqb => true
  | .encSetc => true
  | .txsend => true
  | .rd _ => true
  | .wr _ _ => true
  | .cmdclr => true
  | .txclr => true
  | .rxclr => true
  | .srst => true
  | .ping f => f.fits && f.ptype == 0x01
  | .command f => f.fits && f.ptype == 0x06
  | .infoSetpEcho f => f.fits && f.infoWith 0x01
  | .infoSmall f => f.fits && f.infoWith 0x11
  | .infoBig f => f.fits && f.infoWith 0x21
  | .infoPeriodic f => f.fits && f.infoWith 0x2C
  | .infoOther f =>
      f.fits && f.infoWith f.echo && !([0x01, 0x11, 0x21, 0x2C].contains f.echo)
  | .infoShort f => f.fits && f.ptype == 0x07 && decide (f.body.length < Config.infoMinLen)
  | .init f => f.fits && f.ptype == 0x09
  | .unknownVendor f => f.fits && f.ptype == 0x0B
  | .otherType f => f.fits && !([0x01, 0x06, 0x07, 0x09, 0x0B].contains f.ptype)

end Sys2Proof
end

