-- ==== Sys2Proof/Decode.lean ====
section
/-! DEFINITION. The decoder of both encodings of 30_encoding.md, total, rejecting by name, and after it the encoder. -/

namespace Sys2Proof

/-- Why a code is no instruction. The first four are the kinds of illegal word of 30_encoding.md R84; such a word
raises OpErr. The others are byte sequences that are no valid wire frame. -/
inductive DecodeError where
  /-- OPC in 0xB to 0xE -/
  | reservedOpc
  /-- an ENC word with SUB in 0x4 to 0xF -/
  | reservedSub
  /-- SUB not 0 for an OPC other than 0x4 -/
  | subNotZero
  /-- a reserved-zero field (R81) that is not zero -/
  | fieldNotZero
  /-- byte 0 is not the start marker (R90) -/
  | noStartMarker
  /-- the length byte is above 24 (R94) -/
  | bodyTooLong
  /-- the number of bytes is not 10 + L (R93) -/
  | wrongLength
  /-- the checksum does not match (41_checksum.md R150) -/
  | badChecksum
deriving DecidableEq, Repr

/-! ## Operation words -/

/-- OPC = word[31:28] (30_encoding.md R80). -/
def opcOf (w : Word) : BitVec 4 := w.extractLsb' 28 4
/-- SUB = word[27:24]. -/
def subOf (w : Word) : BitVec 4 := w.extractLsb' 24 4
/-- ADDR = word[23:16]. -/
def addrOf (w : Word) : Byte := w.extractLsb' 16 8
/-- DATA = word[15:0]. -/
def dataOf (w : Word) : Half := w.extractLsb' 0 16

/-- The check shared by the formats that do not read SUB (30_encoding.md R81): SUB zero, and the format's other
reserved-zero fields zero. -/
def withReserved (w : Word) (fieldsZero : Bool) (i : Instr) : Except DecodeError Instr :=
  if subOf w ≠ 0 then .error .subNotZero
  else if fieldsZero then .ok i
  else .error .fieldNotZero

/-- Format N: no operand. -/
def formatN (w : Word) (i : Instr) : Except DecodeError Instr :=
  withReserved w (addrOf w == 0 && dataOf w == 0) i

/-- Format B: a byte in DATA[7:0]. -/
def formatB (w : Word) (i : Byte → Instr) : Except DecodeError Instr :=
  withReserved w (addrOf w == 0 && (dataOf w).extractLsb' 8 8 == 0) (i ((dataOf w).extractLsb' 0 8))

/-- Format A: an address. -/
def formatA (w : Word) (i : Byte → Instr) : Except DecodeError Instr :=
  withReserved w (dataOf w == 0) (i (addrOf w))

/-- Format AD: an address and data. -/
def formatAD (w : Word) (i : Byte → Half → Instr) : Except DecodeError Instr :=
  withReserved w true (i (addrOf w) (dataOf w))

/-- Format S: SUB selects the operation; ADDR and DATA are zero. -/
def formatS (w : Word) : Except DecodeError Instr :=
  let chosen : Except DecodeError Instr :=
    match (subOf w).toNat with
    | 0 => .ok .encPong
    | 1 => .ok .encReqs
    | 2 => .ok .encReqb
    | 3 => .ok .encSetc
    | _ => .error .reservedSub
  match chosen with
  | .ok i => if addrOf w == 0 && dataOf w == 0 then .ok i else .error .fieldNotZero
  | .error e => .error e

/-- The opcode map (30_encoding.md R82), with the illegal words of R84 rejected by name. -/
def decodeOp (w : Word) : Except DecodeError Instr :=
  match (opcOf w).toNat with
  | 0x0 => formatN w .nop
  | 0x1 => formatB w .rxb
  | 0x2 => formatN w .tick
  | 0x3 => formatN w .parse
  | 0x4 => formatS w
  | 0x5 => formatN w .txsend
  | 0x6 => formatA w .rd
  | 0x7 => formatAD w .wr
  | 0x8 => formatN w .cmdclr
  | 0x9 => formatN w .txclr
  | 0xA => formatN w .rxclr
  | 0xF => formatN w .srst
  | _ => .error .reservedOpc

/-! ## Wire frames -/

/-- The frame whose bytes start a byte sequence (30_encoding.md R90); the body is as long as the length byte says. -/
def Frame.ofBytes (bytes : List Byte) : Frame :=
  { h1 := bytes.getD 1 0x00, ptype := bytes.getD 2 0x00, origin := bytes.getD 3 0x00, flag := bytes.getD 4 0x00,
    h5 := bytes.getD 5 0x00, h7 := bytes.getD 7 0x00,
    body := (bytes.drop Config.hdrLen).take (Machine.bodyLen bytes) }

/-- The class of a frame (30_encoding.md R95, 42_decode.md R161): the packet type, then for an info frame with
L >= 2 the echo code. The origin byte is not consulted. -/
def Frame.classOf (f : Frame) : FrameClass :=
  match f.ptype.toNat with
  | 0x01 => .ping
  | 0x06 => .command
  | 0x07 =>
      if f.body.length < Config.infoMinLen then .infoShort
      else
        match f.echo.toNat with
        | 0x01 => .infoSetpEcho
        | 0x11 => .infoSmall
        | 0x21 => .infoBig
        | 0x2C => .infoPeriodic
        | _ => .infoOther
  | 0x09 => .init
  | 0x0B => .unknownVendor
  | _ => .otherType

/-- The instruction of a class, with its frame. -/
def FrameClass.instr : FrameClass → Frame → Instr
  | .ping => .ping
  | .command => .command
  | .infoSetpEcho => .infoSetpEcho
  | .infoSmall => .infoSmall
  | .infoBig => .infoBig
  | .infoPeriodic => .infoPeriodic
  | .infoOther => .infoOther
  | .infoShort => .infoShort
  | .init => .init
  | .unknownVendor => .unknownVendor
  | .otherType => .otherType

/-- A whole frame in wire order (30_encoding.md R90, R93, R94): start marker, length, number of bytes and checksum
are checked, then its class is read. -/
def decodeFrame (bytes : List Byte) : Except DecodeError Instr :=
  if bytes.getD 0 0x00 ≠ Config.sof then .error .noStartMarker
  else if Config.maxBody < Machine.bodyLen bytes then .error .bodyTooLong
  else if bytes.length ≠ Config.hdrLen + Machine.bodyLen bytes + Config.csumLen then .error .wrongLength
  else if Machine.csumMatches bytes = false then .error .badChecksum
  else .ok ((Frame.ofBytes bytes).classOf.instr (Frame.ofBytes bytes))

/-- The decoder of both encodings. -/
def decode : Code → Except DecodeError Instr
  | .op w => decodeOp w
  | .frame bytes => decodeFrame bytes

/-! ## The encoder -/

/-- An operation word from its fields (30_encoding.md R80). -/
def opWord (opc sub : BitVec 4) (addr : Byte) (data : Half) : Word :=
  opc ++ sub ++ addr ++ data

/-- The 8 header bytes of a frame (30_encoding.md R90). -/
def Frame.header (f : Frame) : List Byte :=
  [Config.sof, f.h1, f.ptype, f.origin, f.flag, f.h5, BitVec.ofNat 8 f.body.length, f.h7]

/-- The bytes of a frame in wire order (20_memory.md R62): header, body, checksum. -/
def Frame.bytes (f : Frame) : List Byte :=
  f.header ++ f.body ++ Machine.placeCsum (Machine.checksum (f.header ++ f.body))

/-- The code of an instruction: the word of an operation (30_encoding.md R82, R104), the bytes of a frame. -/
def encode : Instr → Code
  | .nop => .op (opWord 0x0 0 0 0)
  | .rxb b => .op (opWord 0x1 0 0 (b.setWidth 16))
  | .tick => .op (opWord 0x2 0 0 0)
  | .parse => .op (opWord 0x3 0 0 0)
  | .encPong => .op (opWord 0x4 0 0 0)
  | .encReqs => .op (opWord 0x4 1 0 0)
  | .encReqb => .op (opWord 0x4 2 0 0)
  | .encSetc => .op (opWord 0x4 3 0 0)
  | .txsend => .op (opWord 0x5 0 0 0)
  | .rd a => .op (opWord 0x6 0 a 0)
  | .wr a d => .op (opWord 0x7 0 a d)
  | .cmdclr => .op (opWord 0x8 0 0 0)
  | .txclr => .op (opWord 0x9 0 0 0)
  | .rxclr => .op (opWord 0xA 0 0 0)
  | .srst => .op (opWord 0xF 0 0 0)
  | .ping f => .frame f.bytes
  | .command f => .frame f.bytes
  | .infoSetpEcho f => .frame f.bytes
  | .infoSmall f => .frame f.bytes
  | .infoBig f => .frame f.bytes
  | .infoPeriodic f => .frame f.bytes
  | .infoOther f => .frame f.bytes
  | .infoShort f => .frame f.bytes
  | .init f => .frame f.bytes
  | .unknownVendor f => .frame f.bytes
  | .otherType f => .frame f.bytes

/-! ## The opcode table's rows -/

/-- The frame a 16-bit dispatch key K = {hdr[2], body[1]} stands for when every byte the key does not give is 0
(30_encoding.md R95; log 8). With echo code 0 the body is empty, since body[1] then reads as 0; else the body is the
shortest one its class is decoded from (42_decode.md R161). -/
def keyFrame (key : Half) : Frame :=
  let kind : Byte := key.extractLsb' 8 8
  let code : Byte := key.extractLsb' 0 8
  let len : Nat :=
    if kind ≠ 0x07 then Config.infoMinLen
    else if code = 0x11 then Config.smallMinLen
    else if code = 0x21 ∨ code = 0x2C then Config.bigMinLen
    else Config.infoMinLen
  { h1 := 0x00, ptype := kind, origin := 0x00, flag := 0x00, h5 := 0x00, h7 := 0x00,
    body := if code = 0x00 then [] else 0x00 :: code :: List.replicate (len - 2) 0x00 }

/-- The code an opcode-table word stands for: a 32-bit row is an operation word, a 16-bit row a dispatch key. -/
def tableCode (nbits w : Nat) : Option Code :=
  if nbits ≤ 16 then some (.frame (keyFrame (BitVec.ofNat 16 w)).bytes)
  else if nbits ≤ 32 then some (.op (BitVec.ofNat 32 w))
  else none

/-- The instruction the decoder reads from an opcode-table word. -/
def decodeTableWord (nbits w : Nat) : Option Instr :=
  (tableCode nbits w).bind fun c => (decode c).toOption

end Sys2Proof
end

