-- ==== Sys2Proof/Machine/Buffer.lean ====
section
/-! DEFINITION. The byte buffers of the block: fixed-length vectors of bytes, written at an index or by a run of
bytes. -/

namespace Sys2Proof.Machine

/-- RXBUF and TXBUF: 34 bytes (10_state.md R23, R29). -/
abbrev Buf := Vector Byte Config.cap

/-- A buffer of 0x00 bytes. -/
def zeroBuf : Buf := Vector.replicate Config.cap 0x00

/-- The TXBUF contents of `TxReset`: 0xBB at 0, 0x80 at 3, 0x00 elsewhere (10_state.md R29). -/
def txEmptyBuf : Buf := (zeroBuf.set 0 Config.sof).set 3 Config.originModule

/-- Writes a byte sequence from an index on. A byte past the end has no place and is dropped (log 11); no rule's
write from a reachable state reaches past the end. -/
def blit (buf : Buf) (pos : Nat) : List Byte → Buf
  | [] => buf
  | b :: bs => blit (buf.setIfInBounds pos b) (pos + 1) bs

end Sys2Proof.Machine
end

