-- ==== Sys2Proof/Machine/State.lean ====
section
/-! DEFINITION. The machine's state: every state item of 10_state.md R21, then the model's own port fields; the
reset state of 70_reset_and_hazards.md R270. -/

namespace Sys2Proof.Machine

/-- FSTATE (10_state.md R22). Encoding 3 and the source's Sending are never held between steps, so they are no values
here (log 13). -/
inductive FState where
  | hunt | recv | parsing
deriving DecidableEq, Repr

/-- The outcome codes of PARSE, 0 to 9 in this order (10_state.md R34). -/
inductive ParseCode where
  | none | csumBad | ping | cmdDiscard | small | big | setpEcho | infoUnknown | short | typeIgnored
deriving DecidableEq, Repr

/-- The 14 raw-field AC registers, each 16 bits (10_state.md R36). -/
structure AcRaw where
  power        : Half
  mode         : Half
  sleep        : Half
  ifeel        : Half
  vLouver      : Half
  hLouver      : Half
  fanSpeed     : Half
  fanTurbo     : Half
  fanMute      : Half
  clean        : Half
  health       : Half
  healthStatus : Half
  display      : Half
  mildew       : Half
deriving DecidableEq, Repr

/-- A raw-field override register: VALID and VALUE (10_state.md R42); VALID = 0 is "untouched" (R40). -/
structure CmdReg where
  valid : Bool
  value : Byte
deriving DecidableEq, Repr

/-- The 13 raw-field override registers (10_state.md R42). -/
structure CmdRaw where
  power    : CmdReg
  mode     : CmdReg
  sleep    : CmdReg
  ifeel    : CmdReg
  vLouver  : CmdReg
  hLouver  : CmdReg
  fanSpeed : CmdReg
  fanTurbo : CmdReg
  fanMute  : CmdReg
  clean    : CmdReg
  health   : CmdReg
  display  : CmdReg
  mildew   : CmdReg
deriving DecidableEq, Repr

/-- What the environment supplies at one step: the operation word and the two sampled inputs (00_scope.md R5). -/
structure Input where
  word      : Word
  now       : Word
  rxPending : Bool
deriving DecidableEq, Repr

/-- The state of the block (10_state.md R21), then the model's own port fields (logs 5 and 6). -/
structure State where
  /-- FSTATE (R22) -/
  fstate        : FState
  /-- RXBUF (R23) -/
  rxBuf         : Buf
  /-- RX_COUNT, 0 to 34 (R24) -/
  rxCount       : Nat
  /-- RX_START (R25) -/
  rxStart       : Word
  /-- RX_DONE (R26) -/
  rxDone        : Word
  /-- RETAINED (R27) -/
  retained      : Bool
  /-- NOISE_LAST, 0 to 34 (R28) -/
  noiseLast     : Nat
  /-- TXBUF (R29) -/
  txBuf         : Buf
  /-- TX_COUNT: 0, 12, 18 or 25 (R29) -/
  txCount       : Nat
  /-- STATUS (R30) -/
  status        : Half
  /-- IRQ_EN (R31) -/
  irqEn         : Half
  /-- LAST_TX_CSUM (R33) -/
  lastTxCsum    : Half
  /-- PARSE_RESULT (R34) -/
  parseResult   : ParseCode
  /-- AC_TARGET_TEMP, tenths, unsigned (R36) -/
  acTargetTemp  : Half
  /-- AC_AMBIENT, tenths, two's complement (R36) -/
  acAmbient     : Half
  /-- AC_OUTDOOR, tenths, two's complement (R36) -/
  acOutdoor     : Half
  /-- the raw-field AC registers (R36) -/
  acRaw         : AcRaw
  /-- SMALL_VALID (R37) -/
  smallValid    : Bool
  /-- BIG_VALID (R38) -/
  bigValid      : Bool
  /-- LAST_SMALL (R39) -/
  lastSmall     : Vector Byte 13
  /-- CMD_TARGET_TEMP: bit 15 VALID, bits 14:0 tenths (R41) -/
  cmdTargetTemp : Half
  /-- the raw-field override registers (R42) -/
  cmdRaw        : CmdRaw
  /-- the model's own: operation samples presented and not yet taken, the next one first (log 5) -/
  inputs        : List Input
  /-- the model's own: `now` as sampled at the current step (00_scope.md R5) -/
  now           : Word
  /-- the model's own: `rx_pending` as sampled at the current step (00_scope.md R5) -/
  rxPending     : Bool
  /-- the model's own: the `result` of the last step (00_scope.md R5) -/
  result        : Half
  /-- the model's own: the `tx` event of the last step, as its bytes in wire order (00_scope.md R5) -/
  tx            : Option (List Byte)
deriving DecidableEq, Repr

/-- Why the machine stops. It never does: "No event stops the block" (60_exceptions.md R243), so there is no
constructor (log 15). Safe: nothing can be proved of a stop that does not exist. -/
inductive Fault where
deriving DecidableEq, Repr

/-- Why an instruction has no meaning. -/
inductive Refusal where
  /-- The instruction is not modelled. Raised by a refused arm of `exec` and by nothing else; no arm of this model is
  one. Safe: the machine stops. -/
  | notModelled (mnemonic : String)
deriving DecidableEq, Repr

/-- A raw-field AC register set of zeros (70_reset_and_hazards.md R270). -/
def AcRaw.zero : AcRaw :=
  ⟨0, 0, 0, 0, 0, 0, 0, 0, 0, 0, 0, 0, 0, 0⟩

/-- An override register at 0x0000: VALID = 0, untouched (10_state.md R40). -/
def CmdReg.untouched : CmdReg :=
  ⟨false, 0⟩

/-- Every raw-field override register untouched. -/
def CmdRaw.untouched : CmdRaw :=
  ⟨.untouched, .untouched, .untouched, .untouched, .untouched, .untouched, .untouched,
   .untouched, .untouched, .untouched, .untouched, .untouched, .untouched⟩

/-- The machine right after reset (70_reset_and_hazards.md R270). The last five fields are the model's own: no sample
presented, no step taken yet (log 6, DESIGN CHOICE). -/
def State.reset : State :=
  { fstate := .hunt
    rxBuf := zeroBuf
    rxCount := 0
    rxStart := 0
    rxDone := 0
    retained := false
    noiseLast := 0
    txBuf := txEmptyBuf
    txCount := 0
    status := 0
    irqEn := 0
    lastTxCsum := 0
    parseResult := .none
    acTargetTemp := 0
    acAmbient := 0
    acOutdoor := 0
    acRaw := .zero
    smallValid := false
    bigValid := false
    lastSmall := Vector.replicate 13 0
    cmdTargetTemp := 0
    cmdRaw := .untouched
    inputs := []
    now := 0
    rxPending := false
    result := 0
    tx := none }

end Sys2Proof.Machine
end

