-- ==== Sys2Proof/Machine/Flags.lean ====
section
/-! DEFINITION. The events and the interrupt: the bits of STATUS, setting and clearing them, IRQ_EN, and the level
output `irq` (10_state.md R30, R31; 60_exceptions.md R246). -/

namespace Sys2Proof.Machine

/-- The event bits of STATUS (10_state.md R30). -/
inductive Event where
  | frameOk | csumErr | overflow | rxTimeout | noiseFlush | noiseOvf | pingRx | changed | ignored | pongDrop
  | txDone | opErr
deriving DecidableEq, Repr

/-- The bit number of an event (10_state.md R30). -/
def Event.bit : Event → Nat
  | .frameOk => 0
  | .csumErr => 1
  | .overflow => 2
  | .rxTimeout => 3
  | .noiseFlush => 4
  | .noiseOvf => 5
  | .pingRx => 6
  | .changed => 7
  | .ignored => 8
  | .pongDrop => 9
  | .txDone => 10
  | .opErr => 11

/-- The event's bit as a value of STATUS. -/
def Event.mask (e : Event) : Half := 1#16 <<< e.bit

/-- STATUS and IRQ_EN bits 11:0; bits 15:12 are reserved (10_state.md R30, R31). -/
def eventBits : Half := 0x0FFF

/-- `set EVT` (00_scope.md R11, 10_state.md R30): the bit becomes 1 and no other bit changes. -/
def setEvent (e : Event) (s : State) : State :=
  { s with status := s.status ||| e.mask }

/-- `set EVT` where a condition holds. -/
def setEventIf (c : Bool) (e : Event) (s : State) : State :=
  if c then setEvent e s else s

/-- Whether an event bit of STATUS is 1. -/
def State.pending (s : State) (e : Event) : Bool :=
  s.status.getLsbD e.bit

/-- The write-one-to-clear write of STATUS (10_state.md R30, 44_register_ops.md R223). -/
def clearEvents (d : Half) (s : State) : State :=
  { s with status := s.status &&& ~~~(d &&& eventBits) }

/-- The write of IRQ_EN: bits 15:12 are ignored (10_state.md R31). -/
def writeIrqEn (d : Half) (s : State) : State :=
  { s with irqEn := d &&& eventBits }

/-- The level output `irq` (60_exceptions.md R246). -/
def State.irq (s : State) : Bool :=
  (s.status &&& s.irqEn &&& eventBits) != 0

end Sys2Proof.Machine
end

