-- ==== Sys2Proof/Machine/Ops.lean ====
section
/-! DEFINITION. The operations the meanings share: finishing a step, raising OpErr (the block's one exception,
60_exceptions.md R242; there is no trap entry and no return from one, R249 and R250), clearing the receive and the
transmit side, time, the field primitives and frame building. -/

namespace Sys2Proof.Machine

/-! ## Finishing a step -/

/-- Ends a step that emits no `tx` event with this `result` (00_scope.md R8). -/
def finish (r : Half) (s : State) : State :=
  { s with result := r, tx := none }

/-- Ends a step that emits a `tx` event with these bytes (00_scope.md R5). -/
def finishTx (r : Half) (bytes : List Byte) (s : State) : State :=
  { s with result := r, tx := some bytes }

/-- The causes of an operation error (60_exceptions.md R242). The name is for the reader only: no register records
it. -/
inductive OpErrCause where
  | illegal | parseNotReady | txBusy | noBase | badAddr | badWrite
deriving DecidableEq, Repr

/-- `raise OpErr(info)` (60_exceptions.md R242): sets OP_ERR and returns 0xFFFF; no other state changes. -/
def raiseOpErr (_cause : OpErrCause) (s : State) : State :=
  finish 0xFFFF (setEvent .opErr s)

/-! ## The receive side -/

/-- `ResetRx` (40_framer.md R111). -/
def resetRx (s : State) : State :=
  { s with rxBuf := zeroBuf, rxCount := 0, retained := false }

/-- A write of FSTATE. -/
def setFState (f : FState) (s : State) : State :=
  { s with fstate := f }

/-- `RXBUF[RX_COUNT] <- b; RX_COUNT <- RX_COUNT + 1` (40_framer.md R117, R118). -/
def appendRx (b : Byte) (s : State) : State :=
  { s with rxBuf := s.rxBuf.setIfInBounds s.rxCount b, rxCount := s.rxCount + 1 }

/-- A write of NOISE_LAST (10_state.md R28). -/
def setNoiseLast (n : Nat) (s : State) : State :=
  { s with noiseLast := n }

/-- A write of RX_START (10_state.md R25). -/
def stampStart (s : State) : State :=
  { s with rxStart := s.now }

/-- A write of RX_DONE (10_state.md R26). -/
def stampDone (s : State) : State :=
  { s with rxDone := s.now }

/-- `TimedOut(now)` (40_framer.md R114): the elapsed time modulo 2^32, strictly above the timeout. -/
def timedOut (s : State) : Bool :=
  decide (Config.rxTimeout < (s.now - s.rxStart).toNat)

/-- `RxTimeout()` (40_framer.md R120). -/
def dropTimedOut (s : State) : State :=
  setFState .hunt (resetRx (setEvent .rxTimeout s))

/-- `Overflow()` (40_framer.md R119). -/
def dropOverflow (s : State) : State :=
  setFState .hunt (resetRx (setEvent .overflow s))

/-! ## The transmit side -/

/-- `TxReset` (10_state.md R29). -/
def txReset (s : State) : State :=
  { s with txBuf := txEmptyBuf, txCount := 0 }

/-- A frame the block builds: origin module, unexplored bytes 0x00 (30_encoding.md R100). -/
def builtFrame (ptype flag : Byte) (body : List Byte) : Frame :=
  { h1 := 0x00, ptype := ptype, origin := Config.originModule, flag := flag, h5 := 0x00, h7 := 0x00, body := body }

/-- Puts a frame's bytes into TXBUF and its length into TX_COUNT. -/
def loadTx (bytes : List Byte) (s : State) : State :=
  { s with txBuf := blit s.txBuf 0 bytes, txCount := bytes.length }

/-- `BuildFrame(type, flag, body)` (43_encode_transmit.md R191). -/
def buildFrame (ptype flag : Byte) (body : List Byte) (s : State) : State :=
  loadTx (builtFrame ptype flag body).bytes s

/-- The body of the pong frame (30_encoding.md R96). -/
def pongBody : List Byte :=
  [0x1C, 0x27, 0x00, 0x00, 0x00, 0x00, 0x00, 0x00]

/-- The pong frame built into TXBUF (43_encode_transmit.md R192; 42_decode.md R162 builds the same one). -/
def buildPong (s : State) : State :=
  buildFrame 0x01 0x01 pongBody s

/-- The bytes of the queued frame: `TXBUF[0 .. TX_COUNT-1]` (43_encode_transmit.md R204). -/
def queuedBytes (s : State) : List Byte :=
  s.txBuf.toList.take s.txCount

/-! ## Fields of a body -/

/-- The ones of a field's width, at bit 0. -/
def fieldOnes (p : FieldPos) : Byte :=
  (1#8 <<< p.width) - 1#8

/-- `Get(b, F)` (42_decode.md R172). -/
def getField (b : List Byte) (p : FieldPos) : Byte :=
  (b.getD p.byte 0x00 >>> p.lo) &&& fieldOnes p

/-- `Put(b, F, v)` (42_decode.md R172): no bit outside the field changes. -/
def putField (b : List Byte) (p : FieldPos) (v : Byte) : List Byte :=
  b.set p.byte
    ((b.getD p.byte 0x00 &&& ~~~(fieldOnes p <<< p.lo)) ||| ((v &&& fieldOnes p) <<< p.lo))

/-- `TT(b)`: the target temperature of a body in tenths of a degree (42_decode.md R173). -/
def targetTenths (b : List Byte) : Nat :=
  (8 + (getField b Config.ttInt).toNat) * 10 + 5 * (getField b Config.ttHalf).toNat

/-! ## The register banks -/

/-- The raw-field AC register of a field. -/
def AcRaw.get (r : AcRaw) : RawField → Half
  | .power => r.power
  | .mode => r.mode
  | .sleep => r.sleep
  | .ifeel => r.ifeel
  | .vLouver => r.vLouver
  | .hLouver => r.hLouver
  | .fanSpeed => r.fanSpeed
  | .fanTurbo => r.fanTurbo
  | .fanMute => r.fanMute
  | .clean => r.clean
  | .health => r.health
  | .healthStatus => r.healthStatus
  | .display => r.display
  | .mildew => r.mildew

/-- The raw-field AC registers, each given by its field. -/
def AcRaw.ofFields (g : RawField → Half) : AcRaw :=
  { power := g .power, mode := g .mode, sleep := g .sleep, ifeel := g .ifeel, vLouver := g .vLouver,
    hLouver := g .hLouver, fanSpeed := g .fanSpeed, fanTurbo := g .fanTurbo, fanMute := g .fanMute,
    clean := g .clean, health := g .health, healthStatus := g .healthStatus, display := g .display,
    mildew := g .mildew }

/-- The override register of a field. -/
def CmdRaw.get (r : CmdRaw) : CmdField → CmdReg
  | .power => r.power
  | .mode => r.mode
  | .sleep => r.sleep
  | .ifeel => r.ifeel
  | .vLouver => r.vLouver
  | .hLouver => r.hLouver
  | .fanSpeed => r.fanSpeed
  | .fanTurbo => r.fanTurbo
  | .fanMute => r.fanMute
  | .clean => r.clean
  | .health => r.health
  | .display => r.display
  | .mildew => r.mildew

/-- The override registers with the one of a field replaced. -/
def CmdRaw.set (r : CmdRaw) (f : CmdField) (v : CmdReg) : CmdRaw :=
  match f with
  | .power => { r with power := v }
  | .mode => { r with mode := v }
  | .sleep => { r with sleep := v }
  | .ifeel => { r with ifeel := v }
  | .vLouver => { r with vLouver := v }
  | .hLouver => { r with hLouver := v }
  | .fanSpeed => { r with fanSpeed := v }
  | .fanTurbo => { r with fanTurbo := v }
  | .fanMute => { r with fanMute := v }
  | .clean => { r with clean := v }
  | .health => { r with health := v }
  | .display => { r with display := v }
  | .mildew => { r with mildew := v }

/-- A write of CMD_TARGET_TEMP: any value, as written (10_state.md R41). -/
def writeCmdTargetTemp (d : Half) (s : State) : State :=
  { s with cmdTargetTemp := d }

/-- A write of a raw-field override register (10_state.md R42): VALID <- d[15], VALUE <- d[7:0] mod 2^w. -/
def writeCmdRaw (f : CmdField) (d : Half) (s : State) : State :=
  { s with cmdRaw :=
      s.cmdRaw.set f ⟨d.getLsbD 15, d.extractLsb' 0 8 &&& fieldOnes (Config.layout f.raw)⟩ }

/-- Every override register untouched (44_register_ops.md R225). -/
def clearOverrides (s : State) : State :=
  { s with cmdTargetTemp := 0, cmdRaw := .untouched }

/-- Every state item of 10_state.md R21 at its reset value; what the environment supplies is not the block's to
reset (log 14). -/
def softReset (s : State) : State :=
  { State.reset with inputs := s.inputs, now := s.now, rxPending := s.rxPending }

end Sys2Proof.Machine
end

