-- ==== Sys2Proof/Machine/Encode.lean ====
section
/-! DEFINITION. Encode and transmit: ENC.PONG, ENC.REQS, ENC.REQB, ENC.SETC, TXSEND, TXCLR (43_encode_transmit.md). -/

namespace Sys2Proof.Machine

/-- An ENC operation: refused while a frame is queued (43_encode_transmit.md R190), else the build, `result` 1. -/
def encodeIdle (build : State → State) (s : State) : State :=
  if s.txCount ≠ 0 then raiseOpErr .txBusy s else finish 0x0001 (build s)

/-- ENC.PONG (43_encode_transmit.md R192). -/
def execEncPong (s : State) : Host.Outcome State Fault Refusal :=
  .next (encodeIdle buildPong s)

/-- ENC.REQS (43_encode_transmit.md R193): the body of 30_encoding.md R97. -/
def execEncReqs (s : State) : Host.Outcome State Fault Refusal :=
  .next (encodeIdle (buildFrame 0x06 0x00 [0x11, 0x01]) s)

/-- ENC.REQB (43_encode_transmit.md R194): the body of 30_encoding.md R97. -/
def execEncReqb (s : State) : Host.Outcome State Fault Refusal :=
  .next (encodeIdle (buildFrame 0x06 0x00 [0x21, 0x01]) s)

/-! ## The set-params body -/

/-- Materialization (43_encode_transmit.md R195). -/
def setcBase (s : State) : List Byte :=
  [Config.acCmdSetParams, 0x01] ++ s.lastSmall.toList

/-- One raw-field override (43_encode_transmit.md R196). -/
def applyOverride (r : CmdRaw) (b : List Byte) (f : CmdField) : List Byte :=
  if (r.get f).valid then putField b (Config.layout f.raw) (r.get f).value else b

/-- Every raw-field override; the order does not matter (43_encode_transmit.md R196, log 16). -/
def applyOverrides (r : CmdRaw) (b : List Byte) : List Byte :=
  CmdField.all.foldl (applyOverride r) b

/-- The requested target temperature clamped to 16 to 32 degrees, in tenths (43_encode_transmit.md R197). -/
def clampedTenths (t : Half) : Nat :=
  min (max (t.extractLsb' 0 15).toNat Config.ttMin) Config.ttMax

/-- The target temperature put into a body (43_encode_transmit.md R197): the half degree rounded down. -/
def putTarget (t : Nat) (b : List Byte) : List Byte :=
  putField (putField b Config.ttInt (BitVec.ofNat 8 (t / 10 - 8)))
    Config.ttHalf (if 5 ≤ t % 10 then 1 else 0)

/-- The target-temperature override (43_encode_transmit.md R197). -/
def applyTarget (t : Half) (b : List Byte) : List Byte :=
  if t.getLsbD 15 then putTarget (clampedTenths t) b else b

/-- The body of the set-params frame (43_encode_transmit.md R195 to R197). -/
def setcBody (s : State) : List Byte :=
  applyTarget s.cmdTargetTemp (applyOverrides s.cmdRaw (setcBase s))

/-- ENC.SETC (43_encode_transmit.md R199): TX_BUSY is tested before NO_BASE (60_exceptions.md R248). -/
def execEncSetc (s : State) : Host.Outcome State Fault Refusal :=
  if s.txCount = 0 ∧ s.smallValid = false then .next (raiseOpErr .noBase s)
  else .next (encodeIdle (fun t => buildFrame 0x06 0x00 (setcBody t) t) s)

/-! ## Transmission -/

/-- A write of LAST_TX_CSUM: the queued frame's last two bytes, the first of them in bits 7:0
(43_encode_transmit.md R204, 10_state.md R33). -/
def latchTxCsum (s : State) : State :=
  { s with lastTxCsum :=
      (queuedBytes s).getD (s.txCount - 1) 0x00 ++ (queuedBytes s).getD (s.txCount - 2) 0x00 }

/-- Sending: the whole queued frame in one `tx` event (43_encode_transmit.md R204). -/
def sendQueued (s : State) : State :=
  finishTx 0x0001 (queuedBytes s) (txReset (setEvent .txDone (latchTxCsum s)))

/-- TXSEND (43_encode_transmit.md R204): nothing queued or a busy line is no error. -/
def execTxsend (s : State) : Host.Outcome State Fault Refusal :=
  if s.txCount = 0 then .next (finish 0x0000 s)
  else if s.fstate ≠ .hunt ∨ s.rxPending = true then .next (finish 0x0000 s)
  else .next (sendQueued s)

/-- TXCLR (43_encode_transmit.md R206). -/
def execTxclr (s : State) : Host.Outcome State Fault Refusal :=
  .next (finish 0x0000 (txReset s))

end Sys2Proof.Machine
end

