-- ==== Sys2Proof/Machine/Framer.lean ====
section
/-! DEFINITION. The framer operations RXB, TICK and RXCLR (40_framer.md). -/

namespace Sys2Proof.Machine

/-- Start of frame (40_framer.md R116). -/
def startFrame (s : State) : State :=
  let flushed := if 0 < s.rxCount then setEvent .noiseFlush (setNoiseLast s.rxCount s) else s
  setFState .recv (stampStart (appendRx Config.sof (resetRx flushed)))

/-- Noise (40_framer.md R117): stored in RXBUF until it is full. -/
def noiseByte (b : Byte) (s : State) : State :=
  let s1 := appendRx b s
  if s1.rxCount = Config.cap then resetRx (setEvent .noiseOvf (setNoiseLast Config.cap s1)) else s1

/-- `HuntByte(b)` (40_framer.md R115): a retained frame is discarded first. -/
def huntByte (b : Byte) (s : State) : State :=
  let s1 := if s.retained then resetRx s else s
  if b = Config.sof then startFrame s1 else noiseByte b s1

/-- The completion test of 40_framer.md R118. -/
def frameComplete (s : State) : Bool :=
  decide (Config.hdrLen ≤ s.rxCount
    ∧ s.rxCount = Config.hdrLen + (s.rxBuf[6]).toNat + Config.csumLen)

/-- A frame byte (40_framer.md R118): completion is tested before overflow. -/
def recvByte (b : Byte) (s : State) : State :=
  let s1 := appendRx b s
  if frameComplete s1 then stampDone (setFState .parsing s1)
  else if s1.rxCount = Config.cap then dropOverflow s1
  else s1

/-- The receive timeout as RXB and TICK check it (40_framer.md R120): only in RECV. -/
def checkTimeout (s : State) : State :=
  if s.fstate = .recv ∧ timedOut s = true then dropTimedOut s else s

/-- What RXB does with a byte it accepts (40_framer.md R112). -/
def acceptByte (b : Byte) (s : State) : State :=
  let s1 := checkTimeout s
  if s1.fstate = .hunt then huntByte b s1 else recvByte b s1

/-- RXB (40_framer.md R112); in PARSING the byte is refused (R113). -/
def execRxb (b : Byte) (s : State) : Host.Outcome State Fault Refusal :=
  if s.fstate = .parsing then .next (finish 0x0000 s)
  else .next (finish 0x0001 (acceptByte b s))

/-- TICK (40_framer.md R121). -/
def execTick (s : State) : Host.Outcome State Fault Refusal :=
  .next (finish 0x0000 (checkTimeout s))

/-- RXCLR (40_framer.md R123). -/
def execRxclr (s : State) : Host.Outcome State Fault Refusal :=
  .next (finish 0x0000 (setFState .hunt (resetRx s)))

end Sys2Proof.Machine
end

