-- ==== Sys2Proof/Machine/Operands.lean ====
section
/-! DEFINITION. The register address space: which register an address names (10_state.md R44), what it reads as
(44_register_ops.md R221) and what a write does (R223). -/

namespace Sys2Proof.Machine

/-- The registers of 10_state.md R44. -/
inductive Reg where
  | status | irqEn | lstate | rxCount | noiseLast | txCount | lastTxCsum | parseResult
  | rxStartLo | rxStartHi | rxDoneLo | rxDoneHi
  | acTargetTemp | acAmbient | acOutdoor
  | ac (f : RawField)
  | cmdTargetTemp
  | cmd (f : CmdField)
  | lastSmall (k : Fin 13)
  | rxBuf (i : Fin 34)
  | txBuf (i : Fin 34)
deriving DecidableEq, Repr

/-- The register at an address; `none` for a reserved one (10_state.md R44, 20_memory.md R68). -/
def regAt (a : Byte) : Option Reg :=
  match a.toNat with
  | 0x00 => some .status
  | 0x01 => some .irqEn
  | 0x02 => some .lstate
  | 0x03 => some .rxCount
  | 0x04 => some .noiseLast
  | 0x05 => some .txCount
  | 0x06 => some .lastTxCsum
  | 0x07 => some .parseResult
  | 0x08 => some .rxStartLo
  | 0x09 => some .rxStartHi
  | 0x0A => some .rxDoneLo
  | 0x0B => some .rxDoneHi
  | 0x10 => some .acTargetTemp
  | 0x11 => some .acAmbient
  | 0x12 => some .acOutdoor
  | 0x13 => some (.ac .power)
  | 0x14 => some (.ac .mode)
  | 0x15 => some (.ac .sleep)
  | 0x16 => some (.ac .ifeel)
  | 0x17 => some (.ac .vLouver)
  | 0x18 => some (.ac .hLouver)
  | 0x19 => some (.ac .fanSpeed)
  | 0x1A => some (.ac .fanTurbo)
  | 0x1B => some (.ac .fanMute)
  | 0x1C => some (.ac .clean)
  | 0x1D => some (.ac .health)
  | 0x1E => some (.ac .healthStatus)
  | 0x1F => some (.ac .display)
  | 0x20 => some (.ac .mildew)
  | 0x30 => some .cmdTargetTemp
  | 0x33 => some (.cmd .power)
  | 0x34 => some (.cmd .mode)
  | 0x35 => some (.cmd .sleep)
  | 0x36 => some (.cmd .ifeel)
  | 0x37 => some (.cmd .vLouver)
  | 0x38 => some (.cmd .hLouver)
  | 0x39 => some (.cmd .fanSpeed)
  | 0x3A => some (.cmd .fanTurbo)
  | 0x3B => some (.cmd .fanMute)
  | 0x3C => some (.cmd .clean)
  | 0x3D => some (.cmd .health)
  | 0x3F => some (.cmd .display)
  | 0x40 => some (.cmd .mildew)
  | n =>
      if h : 0x60 ≤ n ∧ n < 0x60 + 13 then some (.lastSmall ⟨n - 0x60, by omega⟩)
      else if h : 0x80 ≤ n ∧ n < 0x80 + 34 then some (.rxBuf ⟨n - 0x80, by omega⟩)
      else if h : 0xC0 ≤ n ∧ n < 0xC0 + 34 then some (.txBuf ⟨n - 0xC0, by omega⟩)
      else none

/-- The address of a raw-field AC register (10_state.md R44). -/
def acAddr : RawField → Byte
  | .power => 0x13
  | .mode => 0x14
  | .sleep => 0x15
  | .ifeel => 0x16
  | .vLouver => 0x17
  | .hLouver => 0x18
  | .fanSpeed => 0x19
  | .fanTurbo => 0x1A
  | .fanMute => 0x1B
  | .clean => 0x1C
  | .health => 0x1D
  | .healthStatus => 0x1E
  | .display => 0x1F
  | .mildew => 0x20

/-- The address of a register (10_state.md R44; R45 for the override registers). -/
def Reg.addr : Reg → Byte
  | .status => 0x00
  | .irqEn => 0x01
  | .lstate => 0x02
  | .rxCount => 0x03
  | .noiseLast => 0x04
  | .txCount => 0x05
  | .lastTxCsum => 0x06
  | .parseResult => 0x07
  | .rxStartLo => 0x08
  | .rxStartHi => 0x09
  | .rxDoneLo => 0x0A
  | .rxDoneHi => 0x0B
  | .acTargetTemp => 0x10
  | .acAmbient => 0x11
  | .acOutdoor => 0x12
  | .ac f => acAddr f
  | .cmdTargetTemp => 0x30
  | .cmd f => acAddr f.raw + 0x20
  | .lastSmall k => 0x60 + BitVec.ofNat 8 k.val
  | .rxBuf i => 0x80 + BitVec.ofNat 8 i.val
  | .txBuf i => 0xC0 + BitVec.ofNat 8 i.val

/-- The encoding of FSTATE (10_state.md R22). -/
def FState.encoding : FState → Half
  | .hunt => 0
  | .recv => 1
  | .parsing => 2

/-- The code of a PARSE outcome (10_state.md R34). -/
def ParseCode.number : ParseCode → Half
  | .none => 0
  | .csumBad => 1
  | .ping => 2
  | .cmdDiscard => 3
  | .small => 4
  | .big => 5
  | .setpEcho => 6
  | .infoUnknown => 7
  | .short => 8
  | .typeIgnored => 9

/-- HDR_AVAIL (10_state.md R32). -/
def headerAvailable (s : State) : Bool :=
  decide (8 ≤ s.rxCount) && (s.fstate != .hunt || s.retained)

/-- A bit of LSTATE at its place. -/
def flagBit (b : Bool) (n : Nat) : Half :=
  if b then 1#16 <<< n else 0

/-- LSTATE, computed at each read (10_state.md R32). -/
def lstateValue (s : State) : Half :=
  s.fstate.encoding ||| flagBit (headerAvailable s) 2 ||| flagBit s.retained 3 ||| flagBit s.smallValid 4
    ||| flagBit s.bigValid 5 ||| flagBit (s.txCount != 0) 6

/-- How a raw-field override register reads: VALID, seven zeros, VALUE (10_state.md R42, 44_register_ops.md R221). -/
def CmdReg.read (r : CmdReg) : Half :=
  flagBit r.valid 15 ||| r.value.setWidth 16

/-- `RegValue(a)` of a register (44_register_ops.md R221). -/
def readReg (s : State) : Reg → Half
  | .status => s.status
  | .irqEn => s.irqEn
  | .lstate => lstateValue s
  | .rxCount => BitVec.ofNat 16 s.rxCount
  | .noiseLast => BitVec.ofNat 16 s.noiseLast
  | .txCount => BitVec.ofNat 16 s.txCount
  | .lastTxCsum => s.lastTxCsum
  | .parseResult => s.parseResult.number
  | .rxStartLo => s.rxStart.extractLsb' 0 16
  | .rxStartHi => s.rxStart.extractLsb' 16 16
  | .rxDoneLo => s.rxDone.extractLsb' 0 16
  | .rxDoneHi => s.rxDone.extractLsb' 16 16
  | .acTargetTemp => s.acTargetTemp
  | .acAmbient => s.acAmbient
  | .acOutdoor => s.acOutdoor
  | .ac f => s.acRaw.get f
  | .cmdTargetTemp => s.cmdTargetTemp
  | .cmd f => (s.cmdRaw.get f).read
  | .lastSmall k => (s.lastSmall.get k).setWidth 16
  | .rxBuf i => (s.rxBuf.get i).setWidth 16
  | .txBuf i => (s.txBuf.get i).setWidth 16

/-- `RegValue(a)` of an address; `none` where it is reserved (44_register_ops.md R221). -/
def regValue (s : State) (a : Byte) : Option Half :=
  (regAt a).map (readReg s)

/-- The write of a register (44_register_ops.md R223); `none` for a read-only one. -/
def writeReg (d : Half) (s : State) : Reg → Option State
  | .status => some (clearEvents d s)
  | .irqEn => some (writeIrqEn d s)
  | .cmdTargetTemp => some (writeCmdTargetTemp d s)
  | .cmd f => some (writeCmdRaw f d s)
  | .lstate | .rxCount | .noiseLast | .txCount | .lastTxCsum | .parseResult => none
  | .rxStartLo | .rxStartHi | .rxDoneLo | .rxDoneHi => none
  | .acTargetTemp | .acAmbient | .acOutdoor | .ac _ => none
  | .lastSmall _ | .rxBuf _ | .txBuf _ => none

end Sys2Proof.Machine
end

