-- ==== Sys2Proof/Machine/Parse.lean ====
section
/-! DEFINITION. PARSE and the frame classes it dispatches to (42_decode.md, 41_checksum.md R150). A frame class's
meaning is what PARSE does, from Verify's success on, with a frame of that class (log 7). -/

namespace Sys2Proof.Machine

/-! ## Decoding status bodies -/

/-- What a small-status body gives each raw-field AC register (42_decode.md R175). -/
def rawFields (b : List Byte) : AcRaw :=
  .ofFields fun f => (getField b (Config.layout f)).setWidth 16

/-- The changed flag of a small-status decode (42_decode.md R176). -/
def smallChanged (b : List Byte) (s : State) : Bool :=
  !s.smallValid || BitVec.ofNat 16 (targetTenths b) != s.acTargetTemp || rawFields b != s.acRaw

/-- The registers a small-status decode writes, all at once (42_decode.md R175, 20_memory.md R67). -/
def writeSmall (b : List Byte) (s : State) : State :=
  { s with
    acTargetTemp := BitVec.ofNat 16 (targetTenths b)
    acRaw := rawFields b
    lastSmall := Vector.ofFn fun k => b.getD (k.val + 2) 0x00
    smallValid := true }

/-- `DecodeSmall()` (42_decode.md R175). -/
def decodeSmall (b : List Byte) (s : State) : State :=
  setEventIf (smallChanged b s) .changed (writeSmall b s)

/-- The ambient temperature of a big or periodic body, in tenths (42_decode.md R180). -/
def ambientTenths (b : List Byte) : Int :=
  ((b.getD 3 0x00).toNat - 32 : Int) * 10 + (b.getD 23 0x00).toNat

/-- The outdoor-probe value of a big or periodic body, in tenths (42_decode.md R180). -/
def outdoorTenths (b : List Byte) : Int :=
  ((b.getD 5 0x00).toNat - 32 : Int) * 10

/-- The changed flag of a big-status decode (42_decode.md R181). -/
def bigChanged (b : List Byte) (s : State) : Bool :=
  !s.bigValid || BitVec.ofInt 16 (ambientTenths b) != s.acAmbient
    || BitVec.ofInt 16 (outdoorTenths b) != s.acOutdoor

/-- The registers a big-status decode writes, all at once (42_decode.md R180). -/
def writeBig (b : List Byte) (s : State) : State :=
  { s with
    acAmbient := BitVec.ofInt 16 (ambientTenths b)
    acOutdoor := BitVec.ofInt 16 (outdoorTenths b)
    bigValid := true }

/-- `DecodeBig()` (42_decode.md R180). -/
def decodeBig (b : List Byte) (s : State) : State :=
  setEventIf (bigChanged b s) .changed (writeBig b s)

/-! ## The end of a PARSE -/

/-- The codes that set IGNORED: 3, 6, 7, 8 and 9 (42_decode.md R160). -/
def ParseCode.isIgnored : ParseCode → Bool
  | .cmdDiscard | .setpEcho | .infoUnknown | .short | .typeIgnored => true
  | .none | .csumBad | .ping | .small | .big => false

/-- A write of PARSE_RESULT (10_state.md R34). -/
def setParseResult (c : ParseCode) (s : State) : State :=
  { s with parseResult := c }

/-- RETAINED <- 1 (42_decode.md R168). -/
def retainFrame (s : State) : State :=
  { s with retained := true }

/-- The lines of PARSE after Dispatch (42_decode.md R160). -/
def endParse (c : ParseCode) (s : State) : State :=
  finish c.number (setFState .hunt (retainFrame (setEventIf c.isIgnored .ignored (setParseResult c s))))

/-- PARSE of a frame that passed Verify and whose class does this and returns this code: FRAME_OK (41_checksum.md
R150), the class's effect, the end of PARSE. -/
def parsed (c : ParseCode) (effect : State → State) (s : State) : State :=
  endParse c (effect (setEvent .frameOk s))

/-- PARSE of a frame whose checksum does not match (41_checksum.md R150). -/
def dropBadChecksum (s : State) : State :=
  finish ParseCode.csumBad.number
    (setFState .hunt (resetRx (setParseResult .csumBad (setEvent .csumErr s))))

/-- `Ping()` (42_decode.md R162): a pong is queued if TXBUF is empty, else dropped. -/
def answerPing (s : State) : State :=
  if s.txCount = 0 then buildPong (setEvent .pingRx s) else setEvent .pongDrop (setEvent .pingRx s)

/-! ## The frame classes -/

/-- PING (42_decode.md R162). -/
def execPing (_f : Frame) (s : State) : Host.Outcome State Fault Refusal :=
  .next (parsed .ping answerPing s)

/-- COMMAND (42_decode.md R163). -/
def execCommand (_f : Frame) (s : State) : Host.Outcome State Fault Refusal :=
  .next (parsed .cmdDiscard id s)

/-- INFO.SETP_ECHO (42_decode.md R165). -/
def execInfoSetpEcho (_f : Frame) (s : State) : Host.Outcome State Fault Refusal :=
  .next (parsed .setpEcho id s)

/-- INFO.SMALL (42_decode.md R161, R175); too short a body is SHORT (R167). -/
def execInfoSmall (f : Frame) (s : State) : Host.Outcome State Fault Refusal :=
  if f.body.length < Config.smallMinLen then .next (parsed .short id s)
  else .next (parsed .small (decodeSmall f.body) s)

/-- INFO.BIG (42_decode.md R161, R180); too short a body is SHORT (R167). -/
def execInfoBig (f : Frame) (s : State) : Host.Outcome State Fault Refusal :=
  if f.body.length < Config.bigMinLen then .next (parsed .short id s)
  else .next (parsed .big (decodeBig f.body) s)

/-- INFO.PERIODIC (42_decode.md R161, R180); too short a body is SHORT (R167). -/
def execInfoPeriodic (f : Frame) (s : State) : Host.Outcome State Fault Refusal :=
  if f.body.length < Config.bigMinLen then .next (parsed .short id s)
  else .next (parsed .big (decodeBig f.body) s)

/-- INFO.other (42_decode.md R166). -/
def execInfoOther (_f : Frame) (s : State) : Host.Outcome State Fault Refusal :=
  .next (parsed .infoUnknown id s)

/-- INFO.short: no echo code (42_decode.md R167). -/
def execInfoShort (_f : Frame) (s : State) : Host.Outcome State Fault Refusal :=
  .next (parsed .short id s)

/-- INIT (42_decode.md R164). -/
def execInit (_f : Frame) (s : State) : Host.Outcome State Fault Refusal :=
  .next (parsed .typeIgnored id s)

/-- UNKNOWN_VENDOR (42_decode.md R164). -/
def execUnknownVendor (_f : Frame) (s : State) : Host.Outcome State Fault Refusal :=
  .next (parsed .typeIgnored id s)

/-- OTHER_TYPE (42_decode.md R164). -/
def execOtherType (_f : Frame) (s : State) : Host.Outcome State Fault Refusal :=
  .next (parsed .typeIgnored id s)

/-! ## PARSE -/

/-- `Dispatch()` (42_decode.md R161) and what follows it. -/
def dispatchFrame (f : Frame) (s : State) : Host.Outcome State Fault Refusal :=
  match f.classOf with
  | .ping => execPing f s
  | .command => execCommand f s
  | .infoSetpEcho => execInfoSetpEcho f s
  | .infoSmall => execInfoSmall f s
  | .infoBig => execInfoBig f s
  | .infoPeriodic => execInfoPeriodic f s
  | .infoOther => execInfoOther f s
  | .infoShort => execInfoShort f s
  | .init => execInit f s
  | .unknownVendor => execUnknownVendor f s
  | .otherType => execOtherType f s

/-- The frame in RXBUF, as PARSE reads it. -/
def rxFrame (s : State) : Frame :=
  Frame.ofBytes s.rxBuf.toList

/-- PARSE (42_decode.md R160): OpErr if no frame is complete, then Verify, then Dispatch. -/
def execParse (s : State) : Host.Outcome State Fault Refusal :=
  match s.fstate with
  | .parsing =>
      if csumMatches s.rxBuf.toList then dispatchFrame (rxFrame s) s else .next (dropBadChecksum s)
  | .hunt => .next (raiseOpErr .parseNotReady s)
  | .recv => .next (raiseOpErr .parseNotReady s)

end Sys2Proof.Machine
end

