-- ==== Sys2Proof/Machine/Registers.lean ====
section
/-! DEFINITION. The register and control operations NOP, RD, WR, CMDCLR, SRST (44_register_ops.md). -/

namespace Sys2Proof.Machine

/-- NOP (44_register_ops.md R220). -/
def execNop (s : State) : Host.Outcome State Fault Refusal :=
  .next (finish 0x0000 s)

/-- RD (44_register_ops.md R222). -/
def execRd (a : Byte) (s : State) : Host.Outcome State Fault Refusal :=
  match regAt a with
  | some r => .next (finish (readReg s r) s)
  | none => .next (raiseOpErr .badAddr s)

/-- WR (44_register_ops.md R223): a read-only or reserved address raises OpErr. -/
def execWr (a : Byte) (d : Half) (s : State) : Host.Outcome State Fault Refusal :=
  match (regAt a).bind (writeReg d s) with
  | some t => .next (finish 0x0000 t)
  | none => .next (raiseOpErr .badWrite s)

/-- CMDCLR (44_register_ops.md R225). -/
def execCmdclr (s : State) : Host.Outcome State Fault Refusal :=
  .next (finish 0x0000 (clearOverrides s))

/-- SRST (44_register_ops.md R226): no `tx` event. -/
def execSrst (s : State) : Host.Outcome State Fault Refusal :=
  .next (finish 0x0000 (softReset s))

end Sys2Proof.Machine
end

