-- ==== Sys2Proof/Machine/Dispatch.lean ====
section
/-! DEFINITION. What each instruction does: one arm per constructor. -/

namespace Sys2Proof.Machine

def exec (i : Instr) (s : State) : Host.Outcome State Fault Refusal :=
  match i with
  | .nop => Sys2Proof.Machine.execNop s
  | .rxb b => Sys2Proof.Machine.execRxb b s
  | .tick => Sys2Proof.Machine.execTick s
  | .parse => Sys2Proof.Machine.execParse s
  | .encPong => Sys2Proof.Machine.execEncPong s
  | .encReqs => Sys2Proof.Machine.execEncReqs s
  | .encReqb => Sys2Proof.Machine.execEncReqb s
  | .encSetc => Sys2Proof.Machine.execEncSetc s
  | .txsend => Sys2Proof.Machine.execTxsend s
  | .rd a => Sys2Proof.Machine.execRd a s
  | .wr a d => Sys2Proof.Machine.execWr a d s
  | .cmdclr => Sys2Proof.Machine.execCmdclr s
  | .txclr => Sys2Proof.Machine.execTxclr s
  | .rxclr => Sys2Proof.Machine.execRxclr s
  | .srst => Sys2Proof.Machine.execSrst s
  | .ping f => Sys2Proof.Machine.execPing f s
  | .command f => Sys2Proof.Machine.execCommand f s
  | .infoSetpEcho f => Sys2Proof.Machine.execInfoSetpEcho f s
  | .infoSmall f => Sys2Proof.Machine.execInfoSmall f s
  | .infoBig f => Sys2Proof.Machine.execInfoBig f s
  | .infoPeriodic f => Sys2Proof.Machine.execInfoPeriodic f s
  | .infoOther f => Sys2Proof.Machine.execInfoOther f s
  | .infoShort f => Sys2Proof.Machine.execInfoShort f s
  | .init f => Sys2Proof.Machine.execInit f s
  | .unknownVendor f => Sys2Proof.Machine.execUnknownVendor f s
  | .otherType f => Sys2Proof.Machine.execOtherType f s

end Sys2Proof.Machine
end

