-- ==== Sys2Proof/Machine/Port.lean ====
section
/-! DEFINITION. The operation port (00_scope.md R5, R8): taking the next sample, running its word, and presenting a
word or a frame to the block. The step calls these. -/

namespace Sys2Proof.Machine

/-- The state with one sample taken from the port: its inputs are what the operation sees (00_scope.md R5). -/
def takeInput (x : Input) (rest : List Input) (s : State) : State :=
  { s with inputs := rest, now := x.now, rxPending := x.rxPending }

/-- What an operation word does: its instruction, or OpErr(ILLEGAL) where it is none (30_encoding.md R84). -/
def runWord (w : Word) (s : State) : Host.Outcome State Fault Refusal :=
  match decodeOp w with
  | .ok i => exec i s
  | .error _ => .next (raiseOpErr .illegal s)

/-- One step: the next sample's operation. With no sample there is no operation, and the block waits (log 5). -/
def stepPort (s : State) : Host.Outcome State Fault Refusal :=
  match s.inputs with
  | [] => .next s
  | x :: rest => runWord x.word (takeInput x rest s)

/-- A word presented as the next operation, with the inputs the block last sampled. -/
def presentWord (w : Word) (s : State) : State :=
  { s with inputs := { word := w, now := s.now, rxPending := s.rxPending } :: s.inputs }

/-- A complete frame put into RXBUF as RXB would leave it (10_state.md R24: PARSING, RX_COUNT = 10 + L). -/
def holdFrame (bytes : List Byte) (s : State) : State :=
  { s with fstate := .parsing, rxBuf := blit zeroBuf 0 bytes, rxCount := bytes.length, retained := false }

/-- The word of PARSE (30_encoding.md R82). -/
def parseWord : Word := 0x30000000

/-- An instruction's code presented as what the next step runs: an operation word at the port, or a frame in RXBUF
and PARSE at the port (log 8). -/
def presentCode (c : Code) (s : State) : State :=
  match c with
  | .op w => presentWord w s
  | .frame bytes => presentWord parseWord (holdFrame bytes s)

end Sys2Proof.Machine
end

