-- ==== Sys2Proof/Machine/Step.lean ====
section
/-! DEFINITION. One step of the machine, and where the step finds its next instruction. -/

namespace Sys2Proof.Machine

/-- One step (00_scope.md R8): next, and never a fault or a refusal. -/
def step (s : State) : Host.Outcome State Fault Refusal :=
  stepPort s

/-- The state with an opcode-table word placed where the next step finds it (log 8). -/
def State.withFetchWord (s : State) (nbits w : Nat) : State :=
  match tableCode nbits w with
  | some c => presentCode c s
  | none => s

end Sys2Proof.Machine
end

