-- ==== Sys2Proof/Safety.lean ====
section
/-! DEFINITION. The terms statements are made in: the states an outcome leaves, written out field by field; the
spec's tables as tables; the invariants that rule out the states no run reaches; runs of several operations. -/

namespace Sys2Proof.Machine

/-! ## Outcomes written out -/

/-- The state with this `result` and no `tx` event (00_scope.md R8). -/
def answered (r : Half) (s : State) : State :=
  { s with result := r, tx := none }

/-- What an operation error leaves (60_exceptions.md R242): STATUS bit 11 set, `result` 0xFFFF, nothing else. -/
def opErrOf (s : State) : State :=
  { s with status := s.status ||| 0x0800, result := 0xFFFF, tx := none }

/-- The receive side emptied and back in HUNT (40_framer.md R111, R119, R120). -/
def rxDropped (s : State) : State :=
  { s with fstate := .hunt, rxBuf := Vector.replicate 34 0x00, rxCount := 0, retained := false }

/-- What a receive timeout leaves (40_framer.md R120): STATUS bit 3 set, the receive side dropped. -/
def timedOutOf (s : State) : State :=
  rxDropped { s with status := s.status ||| 0x0008 }

/-- The elapsed time since the frame's first byte, modulo 2^32 (40_framer.md R114). -/
def elapsed (s : State) : Nat :=
  (s.now.toNat + 2 ^ 32 - s.rxStart.toNat) % 2 ^ 32

/-- What PARSE leaves of a frame it only classifies (42_decode.md R160 to R168): FRAME_OK and IGNORED set, the code
in PARSE_RESULT and `result`, the frame retained, HUNT. -/
def ignoredOf (c : ParseCode) (n : Half) (s : State) : State :=
  { s with status := s.status ||| 0x0101, parseResult := c, retained := true, fstate := .hunt,
           result := n, tx := none }

/-! ## Operation words by number -/

/-- OPC of a word, as a number (30_encoding.md R80). -/
def opcNat (w : Word) : Nat := w.toNat / 2 ^ 28
/-- SUB of a word, as a number. -/
def subNat (w : Word) : Nat := w.toNat / 2 ^ 24 % 16
/-- ADDR of a word, as a number. -/
def addrNat (w : Word) : Nat := w.toNat / 2 ^ 16 % 256
/-- DATA of a word, as a number. -/
def dataNat (w : Word) : Nat := w.toNat % 2 ^ 16

/-- The reserved-zero fields ADDR and DATA of the word's format are zero (30_encoding.md R81): format B reads
DATA[7:0], format A reads ADDR, format AD reads both, the others neither. -/
def reservedZero (w : Word) : Prop :=
  if opcNat w = 1 then addrNat w = 0 ∧ dataNat w / 256 = 0
  else if opcNat w = 6 then dataNat w = 0
  else if opcNat w = 7 then True
  else addrNat w = 0 ∧ dataNat w = 0

/-- The four kinds of illegal word (30_encoding.md R84). -/
def illegalWord (w : Word) : Prop :=
  (0xB ≤ opcNat w ∧ opcNat w ≤ 0xE)
    ∨ (opcNat w = 4 ∧ 4 ≤ subNat w)
    ∨ (opcNat w ≠ 4 ∧ subNat w ≠ 0)
    ∨ ¬ reservedZero w

/-- Every word of this OPC, other than the one legal word of a format without operands, raises OpErr. -/
def onlyLegalWord (opc : Nat) (legal : Word) (s : State) : Prop :=
  ∀ w, opcNat w = opc → w ≠ legal → runWord w s = .next (opErrOf s)

/-- A row of the opcode map (30_encoding.md R82): the words w with w AND mask = pattern, and the operation with its
operands. -/
structure OpRow where
  pattern : Word
  mask    : Word
  build   : Word → Instr

/-- The opcode map of 30_encoding.md R82, row by row; operands as in R83. -/
def opcodeMap : List OpRow :=
  [⟨0x00000000, 0xFFFFFFFF, fun _ => .nop⟩,
   ⟨0x10000000, 0xFFFFFF00, fun w => .rxb (w.setWidth 8)⟩,
   ⟨0x20000000, 0xFFFFFFFF, fun _ => .tick⟩,
   ⟨0x30000000, 0xFFFFFFFF, fun _ => .parse⟩,
   ⟨0x40000000, 0xFFFFFFFF, fun _ => .encPong⟩,
   ⟨0x41000000, 0xFFFFFFFF, fun _ => .encReqs⟩,
   ⟨0x42000000, 0xFFFFFFFF, fun _ => .encReqb⟩,
   ⟨0x43000000, 0xFFFFFFFF, fun _ => .encSetc⟩,
   ⟨0x50000000, 0xFFFFFFFF, fun _ => .txsend⟩,
   ⟨0x60000000, 0xFF00FFFF, fun w => .rd ((w >>> 16).setWidth 8)⟩,
   ⟨0x70000000, 0xFF000000, fun w => .wr ((w >>> 16).setWidth 8) (w.setWidth 16)⟩,
   ⟨0x80000000, 0xFFFFFFFF, fun _ => .cmdclr⟩,
   ⟨0x90000000, 0xFFFFFFFF, fun _ => .txclr⟩,
   ⟨0xA0000000, 0xFFFFFFFF, fun _ => .rxclr⟩,
   ⟨0xF0000000, 0xFFFFFFFF, fun _ => .srst⟩]

/-- A row of the frame-class table (30_encoding.md R95): the keys K with K AND mask = pattern, and the lengths L
from `least` to `most`. -/
structure FrameRow where
  pattern : Half
  mask    : Half
  least   : Nat
  most    : Nat
  cls     : FrameClass

/-- The frame-class table of 30_encoding.md R95, in table order; the first row that matches wins. -/
def frameClassTable : List FrameRow :=
  [⟨0x0100, 0xFF00, 0, 24, .ping⟩,
   ⟨0x0600, 0xFF00, 0, 24, .command⟩,
   ⟨0x0701, 0xFFFF, 2, 24, .infoSetpEcho⟩,
   ⟨0x0711, 0xFFFF, 2, 24, .infoSmall⟩,
   ⟨0x0721, 0xFFFF, 2, 24, .infoBig⟩,
   ⟨0x072C, 0xFFFF, 2, 24, .infoPeriodic⟩,
   ⟨0x0700, 0xFF00, 2, 24, .infoOther⟩,
   ⟨0x0700, 0xFF00, 0, 1, .infoShort⟩,
   ⟨0x0900, 0xFF00, 0, 24, .init⟩,
   ⟨0x0B00, 0xFF00, 0, 24, .unknownVendor⟩,
   ⟨0x0000, 0x0000, 0, 24, .otherType⟩]

/-- The dispatch key K = {hdr[2], body[1]}, body[1] read as 0x00 when L < 2 (30_encoding.md R95). -/
def dispatchKey (f : Frame) : Half :=
  f.ptype ++ (if f.body.length < 2 then (0x00 : Byte) else f.body.getD 1 0x00)

/-- Whether a row takes a frame. -/
def FrameRow.takes (r : FrameRow) (f : Frame) : Bool :=
  dispatchKey f &&& r.mask == r.pattern && decide (r.least ≤ f.body.length ∧ f.body.length ≤ r.most)

/-- PARSE with a complete frame of this class in RXBUF does what the class's instruction does (42_decode.md R160,
R161). -/
def parsedAs (c : FrameClass) (f : Frame) : Prop :=
  f.fits = true → f.classOf = c →
    ∀ s, exec .parse (holdFrame f.bytes s) = exec (c.instr f) (holdFrame f.bytes s)

/-- An instruction of the operation port, as against a class of wire frame. -/
def isOperation : Instr → Bool
  | .nop | .rxb _ | .tick | .parse | .encPong | .encReqs | .encReqb | .encSetc | .txsend => true
  | .rd _ | .wr _ _ | .cmdclr | .txclr | .rxclr | .srst => true
  | .ping _ | .command _ | .infoSetpEcho _ | .infoSmall _ | .infoBig _ | .infoPeriodic _ => false
  | .infoOther _ | .infoShort _ | .init _ | .unknownVendor _ | .otherType _ => false

/-! ## The register map by number -/

/-- The reserved addresses as 20_memory.md R68 lists them. -/
def reservedAddr (a : Byte) : Bool :=
  (0x0C ≤ a && a ≤ 0x0F) || (0x21 ≤ a && a ≤ 0x2F) || a == 0x31 || a == 0x32 || a == 0x3E
    || (0x41 ≤ a && a ≤ 0x5F) || (0x6D ≤ a && a ≤ 0x7F) || (0xA2 ≤ a && a ≤ 0xBF) || 0xE2 ≤ a

/-- The writable addresses (44_register_ops.md R223). -/
def writableAddr (a : Byte) : Bool :=
  a == 0x00 || a == 0x01 || a == 0x30 || (0x33 ≤ a && a ≤ 0x3D) || a == 0x3F || a == 0x40

/-- A row of the register map (10_state.md R44): address, register, and whether a WR reaches it. -/
structure RegRow where
  addr     : Byte
  reg      : Reg
  writable : Bool

/-- The register map of 10_state.md R44, row by row, but for the three buffers. Every row reads 0x0000 at reset. -/
def registerMap : List RegRow :=
  [⟨0x00, .status, true⟩, ⟨0x01, .irqEn, true⟩, ⟨0x02, .lstate, false⟩, ⟨0x03, .rxCount, false⟩,
   ⟨0x04, .noiseLast, false⟩, ⟨0x05, .txCount, false⟩, ⟨0x06, .lastTxCsum, false⟩, ⟨0x07, .parseResult, false⟩,
   ⟨0x08, .rxStartLo, false⟩, ⟨0x09, .rxStartHi, false⟩, ⟨0x0A, .rxDoneLo, false⟩, ⟨0x0B, .rxDoneHi, false⟩,
   ⟨0x10, .acTargetTemp, false⟩, ⟨0x11, .acAmbient, false⟩, ⟨0x12, .acOutdoor, false⟩,
   ⟨0x13, .ac .power, false⟩, ⟨0x14, .ac .mode, false⟩, ⟨0x15, .ac .sleep, false⟩, ⟨0x16, .ac .ifeel, false⟩,
   ⟨0x17, .ac .vLouver, false⟩, ⟨0x18, .ac .hLouver, false⟩, ⟨0x19, .ac .fanSpeed, false⟩,
   ⟨0x1A, .ac .fanTurbo, false⟩, ⟨0x1B, .ac .fanMute, false⟩, ⟨0x1C, .ac .clean, false⟩,
   ⟨0x1D, .ac .health, false⟩, ⟨0x1E, .ac .healthStatus, false⟩, ⟨0x1F, .ac .display, false⟩,
   ⟨0x20, .ac .mildew, false⟩, ⟨0x30, .cmdTargetTemp, true⟩,
   ⟨0x33, .cmd .power, true⟩, ⟨0x34, .cmd .mode, true⟩, ⟨0x35, .cmd .sleep, true⟩, ⟨0x36, .cmd .ifeel, true⟩,
   ⟨0x37, .cmd .vLouver, true⟩, ⟨0x38, .cmd .hLouver, true⟩, ⟨0x39, .cmd .fanSpeed, true⟩,
   ⟨0x3A, .cmd .fanTurbo, true⟩, ⟨0x3B, .cmd .fanMute, true⟩, ⟨0x3C, .cmd .clean, true⟩,
   ⟨0x3D, .cmd .health, true⟩, ⟨0x3F, .cmd .display, true⟩, ⟨0x40, .cmd .mildew, true⟩]

/-! ## Invariants -/

/-- Every byte from index n on is 0x00. -/
def zeroFrom (buf : Buf) (n : Nat) : Prop :=
  ∀ i (h : i < 34), n ≤ i → buf[i] = 0x00

/-- What RX_COUNT and RXBUF hold in each framer state (10_state.md R24, R27; 40_framer.md R118). -/
def rxShape (s : State) : Prop :=
  match s.fstate with
  | .hunt =>
      if s.retained then
        s.rxBuf[0] = 0xBB ∧ (s.rxBuf[6]).toNat ≤ 24 ∧ s.rxCount = 10 + (s.rxBuf[6]).toNat
          ∧ csumMatches s.rxBuf.toList = true
      else s.rxCount ≤ 33
  | .recv =>
      s.retained = false ∧ 1 ≤ s.rxCount ∧ s.rxCount ≤ 33 ∧ s.rxBuf[0] = 0xBB
        ∧ (8 ≤ s.rxCount → s.rxCount < 10 + (s.rxBuf[6]).toNat)
  | .parsing =>
      s.retained = false ∧ s.rxBuf[0] = 0xBB ∧ (s.rxBuf[6]).toNat ≤ 24
        ∧ s.rxCount = 10 + (s.rxBuf[6]).toNat

/-- The receive side of every reachable state: its shape, RXBUF zero beyond RX_COUNT (44_register_ops.md R222,
90_conflicts.md C8), NOISE_LAST in range (10_state.md R28). -/
def RxInv (s : State) : Prop :=
  rxShape s ∧ zeroFrom s.rxBuf s.rxCount ∧ s.noiseLast ≤ 34

/-- The bytes of a frame the block builds (43_encode_transmit.md R191 to R194, R199; 30_encoding.md R96, R97). -/
def builtBytes (n : Nat) (bytes : List Byte) : Prop :=
  (n = 18 ∧ bytes = (builtFrame 0x01 0x01 [0x1C, 0x27, 0, 0, 0, 0, 0, 0]).bytes)
    ∨ (n = 12 ∧ (bytes = (builtFrame 0x06 0x00 [0x11, 0x01]).bytes
                  ∨ bytes = (builtFrame 0x06 0x00 [0x21, 0x01]).bytes))
    ∨ (n = 25 ∧ ∃ body : List Byte, body.length = 15 ∧ body.take 2 = [0x01, 0x01]
                  ∧ bytes = (builtFrame 0x06 0x00 body).bytes)

/-- The transmit side of every reachable state (10_state.md R29): TxReset when nothing is queued, else a frame the
block builds and 0x00 beyond it. -/
def TxInv (s : State) : Prop :=
  (s.txCount = 0 ∧ s.txBuf = txEmptyBuf)
    ∨ (builtBytes s.txCount (queuedBytes s) ∧ zeroFrom s.txBuf s.txCount)

/-- A small-status body with the bytes LAST_SMALL holds; its first two bytes carry no field. -/
def lastBody (s : State) : List Byte :=
  [0x00, 0x00] ++ s.lastSmall.toList

/-- The AC registers of every reachable state: the raw fields and the target temperature are those of LAST_SMALL
(43_encode_transmit.md R195), the two temperatures lie in their ranges (42_decode.md R182). -/
def AcInv (s : State) : Prop :=
  (∀ f : RawField, (s.acRaw.get f).toNat = (getField (lastBody s) (Config.layout f)).toNat)
    ∧ (s.smallValid = true → s.acTargetTemp.toNat = targetTenths (lastBody s))
    ∧ (-320 ≤ s.acAmbient.toInt ∧ s.acAmbient.toInt ≤ 2485)
    ∧ (-320 ≤ s.acOutdoor.toInt ∧ s.acOutdoor.toInt ≤ 2230 ∧ s.acOutdoor.toInt % 10 = 0)

/-- The reserved bits of STATUS and IRQ_EN are 0 (10_state.md R30, R31) and every override value has its field's
width (R42). -/
def RegInv (s : State) : Prop :=
  s.status &&& 0xF000 = 0 ∧ s.irqEn &&& 0xF000 = 0
    ∧ ∀ f : CmdField, (s.cmdRaw.get f).value.toNat < 2 ^ (Config.layout f.raw).width

/-! ## Runs -/

/-- Several operations one after another, each with the value of `now` sampled at it. -/
def runOps : List (Instr × Word) → State → Host.Outcome State Fault Refusal
  | [], s => .next s
  | (i, t) :: rest, s =>
    match exec i { s with now := t } with
    | .next u => runOps rest u
    | .fault r => .fault r
    | .refused r => .refused r

/-- The bytes a run delivers by RXB, in order. -/
def deliveredBytes (ops : List (Instr × Word)) : List Byte :=
  ops.filterMap fun o => match o.1 with
    | .rxb b => some b
    | _ => none

/-- An operation that does not discard the receive side: any but RXCLR and SRST. -/
def keepsReceiving (i : Instr) : Prop :=
  isOperation i = true ∧ i ≠ .rxclr ∧ i ≠ .srst

end Sys2Proof.Machine
end

