-- ==== Sys2Proof/Certificates/Slice0/Obligations.lean ====
section
/-! DEFINITION. The statements for the provers, in the order of OBLIGATIONS.json. -/

open Sys2Proof Sys2Proof.Machine

/-! ## Reset, the step, the port -/

/-- 70_reset_and_hazards.md R270: the reset state, item by item. The model's own port fields are not in it. -/
def Obligations.ResetStateIsTheSpecs : Prop :=
  let s := State.reset
  s.fstate = .hunt ∧ (∀ i (h : i < 34), s.rxBuf[i] = 0x00) ∧ s.rxCount = 0 ∧ s.retained = false
    ∧ s.rxStart = 0 ∧ s.rxDone = 0 ∧ s.noiseLast = 0
    ∧ (∀ i (h : i < 34), s.txBuf[i] = if i = 0 then 0xBB else if i = 3 then 0x80 else 0x00) ∧ s.txCount = 0
    ∧ s.status = 0x0000 ∧ s.irqEn = 0x0000 ∧ s.lastTxCsum = 0x0000
    ∧ s.parseResult = .none ∧ s.parseResult.number = 0
    ∧ s.acTargetTemp = 0 ∧ s.acAmbient = 0 ∧ s.acOutdoor = 0 ∧ (∀ f, s.acRaw.get f = 0)
    ∧ s.smallValid = false ∧ s.bigValid = false ∧ (∀ k (h : k < 13), s.lastSmall[k] = 0x00)
    ∧ s.cmdTargetTemp = 0x0000
    ∧ (∀ f, (s.cmdRaw.get f).valid = false ∧ (s.cmdRaw.get f).value = 0x00 ∧ (s.cmdRaw.get f).read = 0x0000)
    ∧ s.irq = false

/-- 44_register_ops.md R226: SRST gives the reset state in every state item, `result` 0, no `tx` event; of the
environment's port fields, which are no state items, it says nothing (notes/assumptions/14.md). An SRST word with a
non-zero reserved field raises OpErr and resets nothing. -/
def Obligations.SrstRestoresTheResetState : Prop :=
  decodeOp 0xF0000000 = .ok .srst ∧ ∀ s,
    (∃ t, exec .srst s = .next t ∧ t = { State.reset with
      inputs := t.inputs, now := t.now, rxPending := t.rxPending, result := 0x0000, tx := none })
    ∧ onlyLegalWord 0xF 0xF0000000 s

/-- 00_scope.md R5, R8: a step takes one sample, with its inputs, and runs the instruction its word decodes to; an
illegal word raises OpErr. With no sample the block waits (the model's choice, notes/assumptions/5.md). -/
def Obligations.StepRunsTheDecodedInstruction : Prop :=
  ∀ s : State,
    (∀ x rest i, s.inputs = x :: rest → decodeOp x.word = .ok i →
      step s = exec i { s with inputs := rest, now := x.now, rxPending := x.rxPending })
    ∧ (∀ x rest e, s.inputs = x :: rest → decodeOp x.word = .error e →
      step s = .next (opErrOf { s with inputs := rest, now := x.now, rxPending := x.rxPending }))
    ∧ (s.inputs = [] → step s = .next s)

/-- 60_exceptions.md R243: nothing stops the block. From every state a step gives a next state. -/
def Obligations.NoStepEverStops : Prop :=
  ∀ s : State, ∃ t, step s = .next t

/-- The model's presentation of a word (notes/assumptions/8.md): the very next step runs it, on the state it was
presented to. -/
def Obligations.PresentedWordRunsNext : Prop :=
  ∀ (s : State) (w : Word),
    (∀ i, decodeOp w = .ok i → decodeTableWord 32 w.toNat = some i ∧ step (s.withFetchWord 32 w.toNat) = exec i s)
    ∧ (∀ e, decodeOp w = .error e →
        decodeTableWord 32 w.toNat = none ∧ step (s.withFetchWord 32 w.toNat) = .next (opErrOf s))

/-- The model's presentation of a frame key (notes/assumptions/8.md): every key stands for a frame, and the very next
step is a PARSE that does what that frame's class does. -/
def Obligations.PresentedKeyRunsItsFrame : Prop :=
  ∀ (s : State) (k : Half), ∃ i,
    decodeTableWord 16 k.toNat = some i ∧ i = (keyFrame k).classOf.instr (keyFrame k)
    ∧ step (s.withFetchWord 16 k.toNat) = exec i (holdFrame (keyFrame k).bytes s)

/-! ## Encoding -/

/-- 30_encoding.md sections 1 and 2: decoding the code of a well-formed instruction gives the instruction, with every
operand, for the operations and for the wire frames. -/
def Obligations.DecodeOfEncodeIsTheInstruction : Prop :=
  ∀ i : Instr, i.wellFormed = true → decode (encode i) = .ok i

/-- 30_encoding.md sections 1 and 2: a code that decodes is the one code of its instruction, which is well-formed. -/
def Obligations.EncodeOfDecodeIsTheCode : Prop :=
  ∀ (c : Code) (i : Instr), decode c = .ok i → i.wellFormed = true ∧ encode i = c

/-- 30_encoding.md R82: a word is an operation iff it fits one of the 15 rows (match, mask); the operation is that
row's, with the operands of R83. A word that fits no row raises OpErr. -/
def Obligations.OperationWordsAreTheOpcodeMap : Prop :=
  ∀ w : Word,
    (∀ i : Instr, decodeOp w = .ok i ↔ ∃ r ∈ opcodeMap, w &&& r.mask = r.pattern ∧ r.build w = i)
    ∧ ((∀ r ∈ opcodeMap, w &&& r.mask ≠ r.pattern) → ∀ s, runWord w s = .next (opErrOf s))

/-- 30_encoding.md R84: the four kinds of illegal word raise OpErr and change nothing else; every other word is an
operation. -/
def Obligations.IllegalWordsRaiseOpErr : Prop :=
  ∀ w : Word,
    (illegalWord w → ∀ s, runWord w s = .next (opErrOf s))
    ∧ (¬ illegalWord w → ∃ i, decodeOp w = .ok i)

/-- 30_encoding.md R95: the class of a frame is that of the first row of the frame-class table that takes it; its bytes
decode to the instruction of that class, and PARSE of them does what that instruction does. -/
def Obligations.FrameClassesAreTheTableRows : Prop :=
  ∀ f : Frame, f.fits = true → ∃ c : FrameClass,
    (frameClassTable.find? (fun r => r.takes f)).map FrameRow.cls = some c
    ∧ decode (.frame f.bytes) = .ok (c.instr f)
    ∧ ∀ s, exec .parse (holdFrame f.bytes s) = exec (c.instr f) (holdFrame f.bytes s)

/-- Words and frames of 30_encoding.md R104 and 95_test_vectors.md, written out, decode to what they stand for. -/
def Obligations.WordsWrittenOutDecode : Prop :=
  decode (.op 0x100000BB) = .ok (.rxb 0xBB)
    ∧ decode (.op 0x43000000) = .ok .encSetc
    ∧ decode (.op 0x60100000) = .ok (.rd 0x10)
    ∧ decode (.op 0x703080FF) = .ok (.wr 0x30 0x80FF)
    ∧ decode (.frame [0xBB, 0x00, 0x01, 0x00, 0x00, 0x00, 0x00, 0x00, 0xFF, 0x43])
        = .ok (.ping ⟨0x00, 0x01, 0x00, 0x00, 0x00, 0x00, []⟩)
    ∧ decode (.frame [0xBB, 0x00, 0x07, 0x00, 0x00, 0x00, 0x02, 0x00, 0x01, 0x99, 0x66, 0x3A])
        = .ok (.infoOther ⟨0x00, 0x07, 0x00, 0x00, 0x00, 0x00, [0x01, 0x99]⟩)

/-! ## The framer -/

/-- 40_framer.md R113: in PARSING the byte is refused, `result` 0, nothing else changes. -/
def Obligations.RxbIsRefusedWhileParsing : Prop :=
  ∀ (b : Byte) (s : State), s.fstate = .parsing → exec (.rxb b) s = .next (answered 0x0000 s)

/-- 40_framer.md R115, R116, R117: what a byte does in HUNT, a retained frame being discarded first. -/
def Obligations.HuntByteStartsAFrameOrIsNoise : Prop :=
  ∀ (b : Byte) (s : State), s.fstate = .hunt →
    let u := if s.retained then { s with rxBuf := Vector.replicate 34 0x00, rxCount := 0, retained := false } else s
    exec (.rxb b) s = .next (answered 0x0001 (
      if b = 0xBB then
        { u with
          noiseLast := if 0 < u.rxCount then u.rxCount else u.noiseLast
          status := if 0 < u.rxCount then u.status ||| 0x0010 else u.status
          rxBuf := (Vector.replicate 34 0x00).set 0 0xBB
          rxCount := 1, retained := false, rxStart := s.now, fstate := .recv }
      else if u.rxCount + 1 = 34 then
        { u with noiseLast := 34, status := u.status ||| 0x0020,
                 rxBuf := Vector.replicate 34 0x00, rxCount := 0, retained := false }
      else { u with rxBuf := u.rxBuf.setIfInBounds u.rxCount b, rxCount := u.rxCount + 1 }))

/-- 40_framer.md R118: what a byte does in RECV when no timeout has passed; completion is tested before overflow. -/
def Obligations.FrameByteIsStoredAndMayComplete : Prop :=
  ∀ (b : Byte) (s : State), s.fstate = .recv → elapsed s ≤ 150 →
    let buf := s.rxBuf.setIfInBounds s.rxCount b
    let n := s.rxCount + 1
    exec (.rxb b) s = .next (answered 0x0001 (
      if 8 ≤ n ∧ n = 8 + (buf[6]).toNat + 2 then
        { s with rxBuf := buf, rxCount := n, fstate := .parsing, rxDone := s.now }
      else if n = 34 then rxDropped { s with status := s.status ||| 0x0004 }
      else { s with rxBuf := buf, rxCount := n }))

/-- 40_framer.md R120: a timed-out frame is dropped by the RXB or TICK that finds it, and the byte of that RXB is then
handled in HUNT by the same operation. -/
def Obligations.TimedOutByteIsHandledInHunt : Prop :=
  ∀ (b : Byte) (s : State), s.fstate = .recv → 150 < elapsed s →
    exec (.rxb b) s = exec (.rxb b) (timedOutOf s)
    ∧ (∃ t, exec (.rxb b) s = .next t ∧ t.result = 0x0001 ∧ t.rxCount = 1
        ∧ t.status = s.status ||| 0x0008
        ∧ t.fstate = (if b = 0xBB then .recv else .hunt) ∧ t.rxBuf[0] = b)
    ∧ exec .tick s = .next (answered 0x0000 (timedOutOf s))

/-- 40_framer.md R114, R121: TICK drops a frame whose elapsed time, modulo 2^32, is strictly above 150, and does
nothing otherwise. -/
def Obligations.TickDropsOnlyATimedOutFrame : Prop :=
  decodeOp 0x20000000 = .ok .tick ∧ ∀ s,
    exec .tick s = .next (answered 0x0000 (if s.fstate = .recv ∧ 150 < elapsed s then timedOutOf s else s))
    ∧ onlyLegalWord 0x2 0x20000000 s

/-- 40_framer.md R123: RXCLR empties the receive side and goes to HUNT; it sets no event. -/
def Obligations.RxclrDiscardsTheReceiveSide : Prop :=
  decodeOp 0xA0000000 = .ok .rxclr ∧ ∀ s,
    exec .rxclr s = .next (answered 0x0000 (rxDropped s)) ∧ onlyLegalWord 0xA 0xA0000000 s

/-- 40_framer.md R110: FSTATE moves only along the table's edges, each taken by the operation named there. -/
def Obligations.FramerMovesOnlyAlongItsEdges : Prop :=
  ∀ (i : Instr) (s t : State), isOperation i = true → exec i s = .next t →
    (s.fstate = .hunt →
      (t.fstate = .hunt ∧ i ≠ .rxb 0xBB) ∨ (t.fstate = .recv ∧ i = .rxb 0xBB))
    ∧ (s.fstate = .recv →
      (t.fstate = .recv ∧ i ≠ .rxclr ∧ i ≠ .srst)
      ∨ (t.fstate = .parsing ∧ (∃ b, i = .rxb b) ∧ elapsed s ≤ 150
          ∧ 8 ≤ t.rxCount ∧ t.rxCount = 10 + (t.rxBuf[6]).toNat)
      ∨ (t.fstate = .hunt ∧ (i = .rxclr ∨ i = .srst
          ∨ ((i = .tick ∨ ∃ b, b ≠ 0xBB ∧ i = .rxb b) ∧ 150 < elapsed s)
          ∨ ((∃ b, i = .rxb b) ∧ elapsed s ≤ 150 ∧ s.rxCount + 1 = 34))))
    ∧ (s.fstate = .parsing →
      (t.fstate = .parsing ∧ i ≠ .parse ∧ i ≠ .rxclr ∧ i ≠ .srst)
      ∨ (t.fstate = .hunt ∧ (i = .parse ∨ i = .rxclr ∨ i = .srst)))

/-- 40_framer.md R119, 30_encoding.md R94: on the receive side of a reachable state, the 34th byte of a frame ends in
OVERFLOW exactly when L is above 24; with L = 24 it completes the frame. -/
def Obligations.ThirtyFourthByteOverflowsAboveBody24 : Prop :=
  ∀ (b : Byte) (s : State), RxInv s → s.fstate = .recv → elapsed s ≤ 150 → s.rxCount = 33 →
    (24 < (s.rxBuf[6]).toNat → exec (.rxb b) s = .next (answered 0x0001 (rxDropped
        { s with status := s.status ||| 0x0004 })))
    ∧ ((s.rxBuf[6]).toNat ≤ 24 → exec (.rxb b) s = .next (answered 0x0001
        { s with rxBuf := s.rxBuf.setIfInBounds 33 b, rxCount := 34, fstate := .parsing, rxDone := s.now }))

/-- 40_framer.md R124: the frame built depends only on the byte sequence. A frame's bytes delivered by RXBs, with any
operations but RXCLR and SRST between them and all within 150 of the first, end in PARSING with exactly those bytes
in RXBUF, whatever was hunted before. -/
def Obligations.InterleavedDeliveryBuildsTheFrame : Prop :=
  ∀ (bytes : List Byte) (ops : List (Instr × Word)) (t0 : Word) (s : State),
    s.fstate = .hunt → bodyLen bytes ≤ 24 → bytes.length = 10 + bodyLen bytes →
    deliveredBytes ops = bytes → ops.head? = some (.rxb 0xBB, t0) →
    (∃ b t1, ops.getLast? = some (.rxb b, t1)) →
    (∀ o ∈ ops, keepsReceiving o.1 ∧ (o.2 - t0).toNat ≤ 150) →
    ∃ t, runOps ops s = .next t ∧ t.fstate = .parsing ∧ t.rxBuf = blit zeroBuf 0 bytes
      ∧ t.rxCount = bytes.length ∧ t.retained = false ∧ t.rxStart = t0 ∧ t.rxDone = t.now

/-! ## The checksum -/

/-- The worked checksums of 41_checksum.md R155 and 95_test_vectors.md CK-2, CK-5 and CK-6. -/
def Obligations.WorkedChecksums : Prop :=
  checksum [0xBB, 0x00, 0x01, 0x00, 0x00, 0x00, 0x00, 0x00] = 0x43FF
    ∧ placeCsum (checksum [0xBB, 0x00, 0x01, 0x00, 0x00, 0x00, 0x00, 0x00]) = [0xFF, 0x43]
    ∧ checksum [0xBB, 0x00, 0x01, 0x80, 0x01, 0x00, 0x08, 0x00, 0x1C, 0x27, 0, 0, 0, 0, 0, 0] = 0x1E58
    ∧ checksum [0xBB, 0x00, 0x07, 0x00, 0x00, 0x00, 0x01, 0x00, 0x55] = 0xE7FE
    ∧ checksumWith .single ([0xBB, 0x00, 0x07, 0x00, 0x00, 0x00, 0x0B, 0x00] ++ List.replicate 11 0x33) = 0xFFFF
    ∧ checksumWith .iterated ([0xBB, 0x00, 0x07, 0x00, 0x00, 0x00, 0x0B, 0x00] ++ List.replicate 11 0x33) = 0xFFFE

/-- 41_checksum.md R143: the two values of CSUM_FOLD give different checksums exactly when the single fold exceeds
16 bits. -/
def Obligations.FoldModesDifferOnlyOnACarry : Prop :=
  ∀ xs : List Byte, xs.length ≤ 32 →
    (checksumWith .single xs ≠ checksumWith .iterated xs ↔
      0xFFFF < wordSum xs / 65536 + wordSum xs % 65536)

/-- 41_checksum.md R151: both bytes must match; a frame with its two checksum bytes exchanged passes only if they are
equal. -/
def Obligations.BothChecksumBytesMustMatch : Prop :=
  ∀ (f : Frame) (c0 c1 : Byte), f.fits = true →
    (csumMatches (f.header ++ f.body ++ [c0, c1]) = true ↔
      [c0, c1] = placeCsum (checksum (f.header ++ f.body)))
    ∧ (placeCsum (checksum (f.header ++ f.body)) = [c0, c1] →
        (csumMatches (f.header ++ f.body ++ [c1, c0]) = true ↔ c0 = c1))

/-- 41_checksum.md R153: one flipped bit of a frame's header or body changes the checksum, under both values of
CSUM_FOLD. -/
def Obligations.OneFlippedBitChangesTheChecksum : Prop :=
  ∀ (mode : CsumFold) (xs : List Byte) (i k : Nat), 8 ≤ xs.length → xs.length ≤ 32 → xs.head? = some 0xBB →
    i < xs.length → k < 8 →
    checksumWith mode (xs.set i (xs.getD i 0x00 ^^^ (1#8 <<< k))) ≠ checksumWith mode xs

/-- 41_checksum.md R154: exchanging two aligned words leaves the checksum; exchanging the two bytes of a word changes
the accumulator unless they are equal. -/
def Obligations.WordOrderDoesNotMatter : Prop :=
  ∀ (mode : CsumFold) (pre mid post : List Byte) (a b c d : Byte),
    pre.length % 2 = 0 → mid.length % 2 = 0 →
    checksumWith mode (pre ++ [a, b] ++ mid ++ [c, d] ++ post)
      = checksumWith mode (pre ++ [c, d] ++ mid ++ [a, b] ++ post)
    ∧ (wordSum (pre ++ [a, b] ++ post) = wordSum (pre ++ [b, a] ++ post) ↔ a = b)

/-! ## PARSE -/

/-- 42_decode.md R160, 41_checksum.md R150: on the receive side of a reachable state, PARSE of a complete frame whose
bytes decode runs the frame's class, leaves HUNT with the frame retained and FRAME_OK set, and returns its code; of
a frame whose bytes do not decode, the checksum is wrong, and the frame is dropped with CSUM_ERR and code 1. -/
def Obligations.ParseVerifiesThenRunsTheFrame : Prop :=
  ∀ s : State, RxInv s → s.fstate = .parsing →
    (∀ i, decodeFrame (s.rxBuf.toList.take s.rxCount) = .ok i →
      ∃ t, exec .parse s = .next t ∧ exec i s = .next t
        ∧ t.fstate = .hunt ∧ t.retained = true ∧ t.rxBuf = s.rxBuf ∧ t.rxCount = s.rxCount
        ∧ t.status.getLsbD 0 = true ∧ t.result = t.parseResult.number
        ∧ t.parseResult ≠ .none ∧ t.parseResult ≠ .csumBad)
    ∧ (∀ e, decodeFrame (s.rxBuf.toList.take s.rxCount) = .error e →
      e = .badChecksum
        ∧ exec .parse s = .next { rxDropped s with
            status := s.status ||| 0x0002, parseResult := .csumBad, result := 0x0001, tx := none })

/-- 42_decode.md R168, 10_state.md R27: a frame that passed its checksum stays in RXBUF, retained, through any run of
operations without RXB, RXCLR and SRST; each of these three ends it. A frame that failed is not retained. -/
def Obligations.RetainedFrameStaysUntilDiscarded : Prop :=
  ∀ s : State, RxInv s → s.fstate = .parsing →
    (csumMatches s.rxBuf.toList = true → ∀ ops : List (Instr × Word),
      (∀ o ∈ ops, isOperation o.1 = true ∧ (∀ b, o.1 ≠ .rxb b) ∧ o.1 ≠ .rxclr ∧ o.1 ≠ .srst) →
      ∃ t u, exec .parse s = .next t ∧ runOps ops t = .next u
        ∧ u.retained = true ∧ u.rxBuf = s.rxBuf ∧ u.rxCount = 10 + (s.rxBuf[6]).toNat
        ∧ (∀ i, ((∃ b, i = .rxb b) ∨ i = .rxclr ∨ i = .srst) → ∃ v, exec i u = .next v ∧ v.retained = false))
    ∧ (csumMatches s.rxBuf.toList = false → ∃ t, exec .parse s = .next t ∧ t.retained = false)

/-- 42_decode.md R162: a ping sets PING_RX; with TXBUF free it queues the very frame ENC.PONG builds, else it sets
PONG_DROP and leaves TXBUF; no AC register changes; the code is 2. PARSE of a ping does this. In PARSING the rules
give this; that the class's meaning is the same in every other framer state is the model's choice
(notes/assumptions/7.md). -/
def Obligations.PingIsAnsweredOrItsPongDropped : Prop :=
  ∀ (f : Frame) (s : State),
    (s.txCount = 0 → ∃ t u, exec (.ping f) s = .next t ∧ exec .encPong s = .next u
      ∧ t = { s with txBuf := u.txBuf, txCount := u.txCount, status := s.status ||| 0x0041,
                     parseResult := .ping, retained := true, fstate := .hunt, result := 0x0002, tx := none })
    ∧ (s.txCount ≠ 0 → exec (.ping f) s = .next
        { s with status := s.status ||| 0x0241, parseResult := .ping, retained := true, fstate := .hunt,
                 result := 0x0002, tx := none })
    ∧ parsedAs .ping f

/-- 42_decode.md R163 to R167: the classes PARSE only classifies, and the status bodies too short to decode: the event
and the code, and nothing else besides what every PARSE does. PARSE of a frame of each class does this. In PARSING the
rules give this; that the class's meaning is the same in every other framer state is the model's choice
(notes/assumptions/7.md). -/
def Obligations.IgnoredFramesOnlySetTheirCode : Prop :=
  ∀ (f : Frame) (s : State),
    exec (.command f) s = .next (ignoredOf .cmdDiscard 0x0003 s)
    ∧ exec (.infoSetpEcho f) s = .next (ignoredOf .setpEcho 0x0006 s)
    ∧ exec (.infoOther f) s = .next (ignoredOf .infoUnknown 0x0007 s)
    ∧ exec (.infoShort f) s = .next (ignoredOf .short 0x0008 s)
    ∧ (f.body.length < 15 → exec (.infoSmall f) s = .next (ignoredOf .short 0x0008 s))
    ∧ (f.body.length < 24 → exec (.infoBig f) s = .next (ignoredOf .short 0x0008 s)
        ∧ exec (.infoPeriodic f) s = .next (ignoredOf .short 0x0008 s))
    ∧ exec (.init f) s = .next (ignoredOf .typeIgnored 0x0009 s)
    ∧ exec (.unknownVendor f) s = .next (ignoredOf .typeIgnored 0x0009 s)
    ∧ exec (.otherType f) s = .next (ignoredOf .typeIgnored 0x0009 s)
    ∧ (∀ c ∈ [FrameClass.command, .infoSetpEcho, .infoOther, .infoShort, .infoSmall, .infoBig, .infoPeriodic,
              .init, .unknownVendor, .otherType], parsedAs c f)

/-- 42_decode.md R173, R175, R176: a small status of 15 or more body bytes is decoded in one step; CHANGED is set
exactly when it is the first one or a decoded field differs; nothing else changes. PARSE of such a frame does this. In
PARSING the rules give this; that the class's meaning is the same in every other framer state is the model's choice
(notes/assumptions/7.md). -/
def Obligations.SmallStatusIsDecoded : Prop :=
  ∀ (f : Frame) (s : State), 15 ≤ f.body.length → parsedAs .infoSmall f ∧ ∃ t, exec (.infoSmall f) s = .next t
    ∧ t.acTargetTemp.toNat
        = (8 + (f.body.getD 2 0x00).toNat / 8) * 10 + 5 * ((f.body.getD 5 0x00).toNat / 128)
    ∧ 80 ≤ t.acTargetTemp.toNat ∧ t.acTargetTemp.toNat ≤ 395
    ∧ (∀ F : RawField, (t.acRaw.get F).toNat
        = (f.body.getD (Config.layout F).byte 0x00).toNat / 2 ^ (Config.layout F).lo
            % 2 ^ (Config.layout F).width)
    ∧ (∀ k (h : k < 13), t.lastSmall[k] = f.body.getD (k + 2) 0x00)
    ∧ ((s.smallValid = false ∨ t.acTargetTemp ≠ s.acTargetTemp ∨ ∃ F, t.acRaw.get F ≠ s.acRaw.get F) →
        t.status = s.status ||| 0x0081)
    ∧ (¬ (s.smallValid = false ∨ t.acTargetTemp ≠ s.acTargetTemp ∨ ∃ F, t.acRaw.get F ≠ s.acRaw.get F) →
        t.status = s.status ||| 0x0001)
    ∧ t = { s with acTargetTemp := t.acTargetTemp, acRaw := t.acRaw, lastSmall := t.lastSmall, smallValid := true,
                   status := t.status, parseResult := .small, retained := true, fstate := .hunt,
                   result := 0x0004, tx := none }

/-- 42_decode.md R180, R181: a big or periodic status of 24 body bytes is decoded in one step; CHANGED is set exactly
when it is the first one or a temperature differs; nothing else changes. PARSE of such a frame does this. In PARSING
the rules give this; that the class's meaning is the same in every other framer state is the model's choice
(notes/assumptions/7.md). -/
def Obligations.BigStatusIsDecoded : Prop :=
  ∀ (f : Frame) (s : State), 24 ≤ f.body.length → parsedAs .infoBig f ∧ parsedAs .infoPeriodic f ∧ ∃ t,
    exec (.infoBig f) s = .next t ∧ exec (.infoPeriodic f) s = .next t
    ∧ t.acAmbient.toInt = ((f.body.getD 3 0x00).toNat - 32 : Int) * 10 + (f.body.getD 23 0x00).toNat
    ∧ t.acOutdoor.toInt = ((f.body.getD 5 0x00).toNat - 32 : Int) * 10
    ∧ ((s.bigValid = false ∨ t.acAmbient ≠ s.acAmbient ∨ t.acOutdoor ≠ s.acOutdoor) →
        t.status = s.status ||| 0x0081)
    ∧ (¬ (s.bigValid = false ∨ t.acAmbient ≠ s.acAmbient ∨ t.acOutdoor ≠ s.acOutdoor) →
        t.status = s.status ||| 0x0001)
    ∧ t = { s with acAmbient := t.acAmbient, acOutdoor := t.acOutdoor, bigValid := true, status := t.status,
                   parseResult := .big, retained := true, fstate := .hunt, result := 0x0005, tx := none }

/-- 42_decode.md R184: the same status frame decoded again, whatever STATUS holds by then, sets FRAME_OK and not
CHANGED. The second decode runs the class's meaning in HUNT, where it is the model's choice (notes/assumptions/7.md);
in PARSING it is what PARSE does. -/
def Obligations.SecondDecodeReportsNoChange : Prop :=
  ∀ (f : Frame) (s t : State) (d : Half),
    (15 ≤ f.body.length → exec (.infoSmall f) s = .next t →
      ∃ u, exec (.infoSmall f) { t with status := d } = .next u ∧ u.status = d ||| 0x0001)
    ∧ (24 ≤ f.body.length → exec (.infoBig f) s = .next t →
      ∃ u, exec (.infoBig f) { t with status := d } = .next u ∧ u.status = d ||| 0x0001)
    ∧ (24 ≤ f.body.length → exec (.infoPeriodic f) s = .next t →
      ∃ u, exec (.infoPeriodic f) { t with status := d } = .next u ∧ u.status = d ||| 0x0001)

/-- 42_decode.md R185: only a PARSE with code 4 writes the small-status registers, only one with code 5 the two
temperatures; SRST apart, nothing else writes an AC register, SMALL_VALID, BIG_VALID or LAST_SMALL. A frame class
outside PARSING is the model's choice (notes/assumptions/7.md). -/
def Obligations.OnlyStatusDecodesWriteAcState : Prop :=
  ∀ (i : Instr) (s t : State), exec i s = .next t → i ≠ .srst →
    ((t.acTargetTemp = s.acTargetTemp ∧ t.acRaw = s.acRaw ∧ t.lastSmall = s.lastSmall
        ∧ t.smallValid = s.smallValid)
      ∨ (t.parseResult = .small ∧ t.result = 0x0004
          ∧ ((∃ f, i = .infoSmall f) ∨ (i = .parse ∧ s.fstate = .parsing ∧ csumMatches s.rxBuf.toList = true))))
    ∧ ((t.acAmbient = s.acAmbient ∧ t.acOutdoor = s.acOutdoor ∧ t.bigValid = s.bigValid)
      ∨ (t.parseResult = .big ∧ t.result = 0x0005
          ∧ ((∃ f, i = .infoBig f ∨ i = .infoPeriodic f)
              ∨ (i = .parse ∧ s.fstate = .parsing ∧ csumMatches s.rxBuf.toList = true))))

/-! ## Errors and events -/

/-- 60_exceptions.md R242: the causes of an operation error; each sets STATUS bit 11, returns 0xFFFF and changes
nothing else. -/
def Obligations.OperationErrorsChangeNothingElse : Prop :=
  ∀ s : State,
    (∀ w, illegalWord w → runWord w s = .next (opErrOf s))
    ∧ (s.fstate ≠ .parsing → exec .parse s = .next (opErrOf s))
    ∧ (s.txCount ≠ 0 → exec .encPong s = .next (opErrOf s) ∧ exec .encReqs s = .next (opErrOf s)
        ∧ exec .encReqb s = .next (opErrOf s) ∧ exec .encSetc s = .next (opErrOf s))
    ∧ (s.txCount = 0 → s.smallValid = false → exec .encSetc s = .next (opErrOf s))
    ∧ (∀ a, reservedAddr a = true → exec (.rd a) s = .next (opErrOf s))
    ∧ (∀ a d, writableAddr a = false → exec (.wr a d) s = .next (opErrOf s))

/-- 10_state.md R30: an event bit once set stays set until the host clears it by a WR to STATUS or by SRST; no other
operation clears one. A frame class outside PARSING is the model's choice (notes/assumptions/7.md). -/
def Obligations.StatusBitsStayUntilCleared : Prop :=
  ∀ (i : Instr) (s t : State), exec i s = .next t → i ≠ .srst → (∀ d, i ≠ .wr 0x00 d) →
    ∀ k, s.status.getLsbD k = true → t.status.getLsbD k = true

/-- 60_exceptions.md R246: irq is 1 exactly when some event bit is both set and enabled. -/
def Obligations.IrqIsTheLevelOfEnabledEvents : Prop :=
  ∀ s : State, s.irq = true ↔ ∃ k, k < 12 ∧ s.status.getLsbD k = true ∧ s.irqEn.getLsbD k = true

/-! ## Encode and transmit -/

/-- 43_encode_transmit.md R192, R193, R194: the three fixed frames, byte by byte; nothing but TXBUF and TX_COUNT is
written. A word with a non-zero reserved field raises OpErr. -/
def Obligations.FixedFramesAreBuilt : Prop :=
  decodeOp 0x40000000 = .ok .encPong ∧ decodeOp 0x41000000 = .ok .encReqs ∧ decodeOp 0x42000000 = .ok .encReqb
  ∧ ∀ s : State,
    (s.txCount = 0 →
      exec .encPong s = .next { s with
        txBuf := blit s.txBuf 0 [0xBB, 0x00, 0x01, 0x80, 0x01, 0x00, 0x08, 0x00, 0x1C, 0x27,
                                 0x00, 0x00, 0x00, 0x00, 0x00, 0x00, 0x58, 0x1E]
        txCount := 18, result := 0x0001, tx := none }
      ∧ exec .encReqs s = .next { s with
        txBuf := blit s.txBuf 0 [0xBB, 0x00, 0x06, 0x80, 0x00, 0x00, 0x02, 0x00, 0x11, 0x01, 0x7E, 0x2B]
        txCount := 12, result := 0x0001, tx := none }
      ∧ exec .encReqb s = .next { s with
        txBuf := blit s.txBuf 0 [0xBB, 0x00, 0x06, 0x80, 0x00, 0x00, 0x02, 0x00, 0x21, 0x01, 0x7E, 0x1B]
        txCount := 12, result := 0x0001, tx := none })
    ∧ (s.txCount ≠ 0 → exec .encPong s = .next (opErrOf s) ∧ exec .encReqs s = .next (opErrOf s)
        ∧ exec .encReqb s = .next (opErrOf s))
    ∧ (∀ w, opcNat w = 4 → subNat w ≤ 2 → (addrNat w ≠ 0 ∨ dataNat w ≠ 0) → runWord w s = .next (opErrOf s))

/-- 43_encode_transmit.md R195 to R199: the set-params frame. Its body starts from LAST_SMALL behind the two code
bytes; an overridden field holds the override, every other field and every bit of no field what LAST_SMALL holds;
the target temperature is clamped to 160..320 and rounded down to the half degree. Nothing but TXBUF and TX_COUNT is
written. -/
def Obligations.SetParamsFrameIsBuilt : Prop :=
  ∀ s : State, s.txCount = 0 → s.smallValid = true → ∃ body : List Byte,
    exec .encSetc s = .next { s with
      txBuf := blit s.txBuf 0 (builtFrame 0x06 0x00 body).bytes, txCount := 25, result := 0x0001, tx := none }
    ∧ body.length = 15 ∧ body.take 2 = [0x01, 0x01]
    ∧ (∀ F : CmdField, (getField body (Config.layout F.raw)).toNat =
        if (s.cmdRaw.get F).valid then (s.cmdRaw.get F).value.toNat % 2 ^ (Config.layout F.raw).width
        else (getField (lastBody s) (Config.layout F.raw)).toNat)
    ∧ getField body (Config.layout .healthStatus) = getField (lastBody s) (Config.layout .healthStatus)
    ∧ (s.cmdTargetTemp.getLsbD 15 = true →
        let c := min (max (s.cmdTargetTemp.toNat % 32768) 160) 320
        (body.getD 2 0x00).toNat / 8 = c / 10 - 8
          ∧ (body.getD 5 0x00).toNat / 128 = if 5 ≤ c % 10 then 1 else 0)
    ∧ (s.cmdTargetTemp.getLsbD 15 = false →
        (body.getD 2 0x00).toNat / 8 = (s.lastSmall[0]).toNat / 8
          ∧ (body.getD 5 0x00).toNat / 128 = (s.lastSmall[3]).toNat / 128)
    ∧ (∀ j k (h : j < 13), k < 8 →
        (∀ p ∈ Config.entries Config.layout, ¬ (p.byte = j + 2 ∧ p.lo ≤ k ∧ k < p.lo + p.width)) →
        (body.getD (j + 2) 0x00).getLsbD k = (s.lastSmall[j]).getLsbD k)

/-- 43_encode_transmit.md R196: the overrides may be applied in any order; a field without an override, HEALTH_STATUS
among them, keeps its bits. -/
def Obligations.OverrideOrderDoesNotMatter : Prop :=
  ∀ (r : CmdRaw) (b : List Byte) (order : List CmdField), b.length = 15 → order.Perm CmdField.all →
    order.foldl (applyOverride r) b = applyOverrides r b
    ∧ (∀ F : CmdField, (r.get F).valid = true →
        getField (applyOverrides r b) (Config.layout F.raw)
          = (r.get F).value &&& fieldOnes (Config.layout F.raw))
    ∧ (∀ F : CmdField, (r.get F).valid = false →
        getField (applyOverrides r b) (Config.layout F.raw) = getField b (Config.layout F.raw))
    ∧ getField (applyOverrides r b) (Config.layout .healthStatus) = getField b (Config.layout .healthStatus)

/-- 43_encode_transmit.md R197, R198, R202: the temperature a unit decodes from an encoded request is the request
clamped to 160..320 and rounded down to the half degree; it is the request itself exactly when that is a multiple of
5 in the range. -/
def Obligations.TargetTemperatureIsClampedAndRoundedDown : Prop :=
  ∀ (b : List Byte) (d : Half), b.length = 15 → d.getLsbD 15 = true →
    targetTenths (applyTarget d b) = min (max (d.toNat % 32768) 160) 320 / 5 * 5
    ∧ (targetTenths (applyTarget d b) = d.toNat % 32768 ↔
        160 ≤ d.toNat % 32768 ∧ d.toNat % 32768 ≤ 320 ∧ d.toNat % 32768 % 5 = 0)

/-- 43_encode_transmit.md R202: the round trip. In a state whose AC registers are those of LAST_SMALL, the body ENC.SETC
queues, read as a small status (echo byte 0x11), decodes to the overrides where there are any and to the registers'
old values elsewhere; the target temperature comes back clamped and rounded. The
frame class is run on any state, which outside PARSING is the model's choice (notes/assumptions/7.md). -/
def Obligations.SetParamsRoundTrip : Prop :=
  ∀ (s u : State) (hdr : Frame), AcInv s → s.txCount = 0 → s.smallValid = true →
    ∃ t v, exec .encSetc s = .next t
      ∧ exec (.infoSmall { hdr with body := (((queuedBytes t).drop 8).take 15).set 1 0x11 }) u = .next v
      ∧ v.parseResult = .small
      ∧ (∀ F : CmdField, (v.acRaw.get F.raw).toNat =
          if (s.cmdRaw.get F).valid then (s.cmdRaw.get F).value.toNat % 2 ^ (Config.layout F.raw).width
          else (s.acRaw.get F.raw).toNat)
      ∧ v.acRaw.healthStatus = s.acRaw.healthStatus
      ∧ v.acTargetTemp.toNat =
          if s.cmdTargetTemp.getLsbD 15 then min (max (s.cmdTargetTemp.toNat % 32768) 160) 320 / 5 * 5
          else s.acTargetTemp.toNat

/-- 43_encode_transmit.md R204: TXSEND does nothing with nothing queued, defers while the framer is not in HUNT or a
byte is pending, and else sends the whole frame in one event and empties the transmit side. -/
def Obligations.TxsendSendsWhenTheLineIsIdle : Prop :=
  decodeOp 0x50000000 = .ok .txsend ∧ ∀ s : State,
    (s.txCount = 0 → exec .txsend s = .next (answered 0x0000 s))
    ∧ (s.txCount ≠ 0 → s.fstate ≠ .hunt ∨ s.rxPending = true → exec .txsend s = .next (answered 0x0000 s))
    ∧ (s.txCount ≠ 0 → s.fstate = .hunt → s.rxPending = false →
        exec .txsend s = .next { s with
          tx := some (s.txBuf.toList.take s.txCount)
          lastTxCsum := s.txBuf.toList.getD (s.txCount - 1) 0x00 ++ s.txBuf.toList.getD (s.txCount - 2) 0x00
          status := s.status ||| 0x0400
          txBuf := ((Vector.replicate 34 0x00).set 0 0xBB).set 3 0x80
          txCount := 0, result := 0x0001 })
    ∧ onlyLegalWord 0x5 0x50000000 s

/-- 43_encode_transmit.md R205: a `tx` event comes only from a TXSEND with a frame queued, in HUNT, with no byte
waiting, and it carries that frame. A frame class outside PARSING is the model's choice (notes/assumptions/7.md). -/
def Obligations.OnlyAnIdleTxsendEmits : Prop :=
  ∀ (i : Instr) (s t : State) (bytes : List Byte), exec i s = .next t → t.tx = some bytes →
    i = .txsend ∧ s.txCount ≠ 0 ∧ s.fstate = .hunt ∧ s.rxPending = false ∧ bytes = queuedBytes s

/-- 43_encode_transmit.md R206: TXCLR leaves the transmit side empty and LAST_TX_CSUM as it was. -/
def Obligations.TxclrEmptiesTheTransmitSide : Prop :=
  decodeOp 0x90000000 = .ok .txclr ∧ ∀ s,
    exec .txclr s = .next { s with
      txBuf := ((Vector.replicate 34 0x00).set 0 0xBB).set 3 0x80, txCount := 0, result := 0x0000, tx := none }
    ∧ onlyLegalWord 0x9 0x90000000 s

/-- 41_checksum.md R152: a queued frame delivered back byte by byte passes Verify: PARSE classifies the pong as a ping
and the others as commands. -/
def Obligations.QueuedFrameDeliveredBackVerifies : Prop :=
  ∀ (s r : State) (t0 : Word), TxInv s → s.txCount ≠ 0 → r.fstate = .hunt →
    ∃ t u, runOps ((queuedBytes s).map fun b => (.rxb b, t0)) r = .next t ∧ exec .parse t = .next u
      ∧ u.result = (if s.txCount = 18 then 0x0002 else 0x0003) ∧ u.status.getLsbD 0 = true

/-! ## Registers -/

/-- 44_register_ops.md R220: NOP changes nothing and returns 0. -/
def Obligations.NopChangesNothing : Prop :=
  decodeOp 0x00000000 = .ok .nop ∧ ∀ s,
    exec .nop s = .next (answered 0x0000 s) ∧ onlyLegalWord 0x0 0x00000000 s

/-- 10_state.md R44: the register map, row by row, with each register's access and the value it reads as at reset; every
other address is reserved, and a RD or WR of it, or a WR to a read-only register, raises OpErr. -/
def Obligations.RegisterMapIsFixed : Prop :=
  (∀ r ∈ registerMap, regAt r.addr = some r.reg ∧ writableAddr r.addr = r.writable
      ∧ readReg .reset r.reg = 0x0000)
    ∧ (∀ k : Fin 13, regAt (0x60 + BitVec.ofNat 8 k.val) = some (.lastSmall k)
        ∧ writableAddr (0x60 + BitVec.ofNat 8 k.val) = false ∧ readReg .reset (.lastSmall k) = 0x0000)
    ∧ (∀ i : Fin 34, regAt (0x80 + BitVec.ofNat 8 i.val) = some (.rxBuf i)
        ∧ writableAddr (0x80 + BitVec.ofNat 8 i.val) = false ∧ readReg .reset (.rxBuf i) = 0x0000)
    ∧ (∀ i : Fin 34, regAt (0xC0 + BitVec.ofNat 8 i.val) = some (.txBuf i)
        ∧ writableAddr (0xC0 + BitVec.ofNat 8 i.val) = false
        ∧ readReg .reset (.txBuf i) = if i.val = 0 then 0x00BB else if i.val = 3 then 0x0080 else 0x0000)
    ∧ (∀ a, regAt a = none ↔ reservedAddr a = true)
    ∧ (∀ a s, reservedAddr a = true → exec (.rd a) s = .next (opErrOf s))
    ∧ (∀ a d s, writableAddr a = false → exec (.wr a d) s = .next (opErrOf s))

/-- 10_state.md R45: each raw-field override register sits 0x20 above its AC register, and the addresses that would
mirror the other three are reserved. -/
def Obligations.OverrideAddressesMirrorTheAcAddresses : Prop :=
  (∀ F : CmdField, regAt ((Reg.ac F.raw).addr + 0x20) = some (.cmd F))
    ∧ (∀ a ∈ [(0x31 : Byte), 0x32, 0x3E], regAt a = none)
    ∧ Reg.acAmbient.addr + 0x20 = 0x31 ∧ Reg.acOutdoor.addr + 0x20 = 0x32
    ∧ (Reg.ac .healthStatus).addr + 0x20 = 0x3E

/-- 44_register_ops.md R222: RD returns the register's value and changes nothing else; a reserved address or a
non-zero reserved field raises OpErr; RXBUF beyond RX_COUNT reads 0 on the receive side of a reachable state. -/
def Obligations.ReadReturnsTheRegister : Prop :=
  ∀ (s : State) (a : Byte),
    decodeOp (0x60000000 ||| (a.setWidth 32 <<< 16)) = .ok (.rd a)
    ∧ (∀ r, regAt a = some r → exec (.rd a) s = .next (answered (readReg s r) s))
    ∧ (reservedAddr a = true → exec (.rd a) s = .next (opErrOf s))
    ∧ (∀ w, opcNat w = 6 → (subNat w ≠ 0 ∨ dataNat w ≠ 0) → runWord w s = .next (opErrOf s))
    ∧ (∀ i : Fin 34, RxInv s → s.rxCount ≤ i.val → a = 0x80 + BitVec.ofNat 8 i.val →
        exec (.rd a) s = .next (answered 0x0000 s))

/-- 44_register_ops.md R221, 10_state.md R32, R34, R35, R42: what each register reads as, the computed and the packed
ones in numbers. -/
def Obligations.ComputedRegistersReadAsTheSpecSays : Prop :=
  ∀ s : State,
    (readReg s .status = s.status ∧ readReg s .irqEn = s.irqEn ∧ readReg s .lastTxCsum = s.lastTxCsum
      ∧ readReg s .acTargetTemp = s.acTargetTemp ∧ readReg s .acAmbient = s.acAmbient
      ∧ readReg s .acOutdoor = s.acOutdoor ∧ (∀ F, readReg s (.ac F) = s.acRaw.get F)
      ∧ readReg s .cmdTargetTemp = s.cmdTargetTemp ∧ readReg s .parseResult = s.parseResult.number)
    ∧ (s.rxCount ≤ 34 → s.noiseLast ≤ 34 → s.txCount ≤ 34 → (readReg s .rxCount).toNat = s.rxCount
      ∧ (readReg s .noiseLast).toNat = s.noiseLast ∧ (readReg s .txCount).toNat = s.txCount)
    ∧ (readReg s .lstate).toNat =
      (match s.fstate with | .hunt => 0 | .recv => 1 | .parsing => 2)
        + (if 8 ≤ s.rxCount ∧ (s.fstate ≠ .hunt ∨ s.retained = true) then 4 else 0)
        + (if s.retained then 8 else 0) + (if s.smallValid then 16 else 0) + (if s.bigValid then 32 else 0)
        + (if s.txCount ≠ 0 then 64 else 0)
    ∧ (readReg s .rxStartLo).toNat + 65536 * (readReg s .rxStartHi).toNat = s.rxStart.toNat
    ∧ (readReg s .rxDoneLo).toNat + 65536 * (readReg s .rxDoneHi).toNat = s.rxDone.toNat
    ∧ (∀ F, (readReg s (.cmd F)).toNat =
        (if (s.cmdRaw.get F).valid then 32768 else 0) + (s.cmdRaw.get F).value.toNat)
    ∧ (∀ i : Fin 34, (readReg s (.rxBuf i)).toNat = (s.rxBuf[i]).toNat
        ∧ (readReg s (.txBuf i)).toNat = (s.txBuf[i]).toNat)
    ∧ (∀ k : Fin 13, (readReg s (.lastSmall k)).toNat = (s.lastSmall[k]).toNat)

/-- 44_register_ops.md R223: WR writes the one register its address names, as that register takes a write; a read-only
or reserved address or a non-zero SUB raises OpErr. -/
def Obligations.WriteReachesOnlyItsRegister : Prop :=
  ∀ (s : State) (a : Byte) (d : Half),
    decodeOp (0x70000000 ||| (a.setWidth 32 <<< 16) ||| d.setWidth 32) = .ok (.wr a d)
    ∧ exec (.wr 0x00 d) s = .next (answered 0x0000 { s with status := s.status &&& ~~~(d &&& 0x0FFF) })
    ∧ exec (.wr 0x01 d) s = .next (answered 0x0000 { s with irqEn := d &&& 0x0FFF })
    ∧ exec (.wr 0x30 d) s = .next (answered 0x0000 { s with cmdTargetTemp := d })
    ∧ (∀ F : CmdField, ∃ v : CmdReg, v.valid = d.getLsbD 15
        ∧ v.value.toNat = d.toNat % 256 % 2 ^ (Config.layout F.raw).width
        ∧ exec (.wr (Reg.cmd F).addr d) s = .next (answered 0x0000 { s with cmdRaw := s.cmdRaw.set F v })
        ∧ (s.cmdRaw.set F v).get F = v ∧ ∀ G, G ≠ F → (s.cmdRaw.set F v).get G = s.cmdRaw.get G)
    ∧ (writableAddr a = false → exec (.wr a d) s = .next (opErrOf s))
    ∧ (∀ w, opcNat w = 7 → subNat w ≠ 0 → runWord w s = .next (opErrOf s))

/-- 10_state.md R42: a raw-field override register reads back VALID as written, zeros, and the value cut to its field's
width. -/
def Obligations.OverrideReadsBackTruncated : Prop :=
  ∀ (F : CmdField) (s : State) (d : Half), ∃ t u,
    exec (.wr (Reg.cmd F).addr d) s = .next t ∧ exec (.rd (Reg.cmd F).addr) t = .next u
    ∧ u.result.toNat = d.toNat / 32768 * 32768 + d.toNat % 256 % 2 ^ (Config.layout F.raw).width
    ∧ t.status = s.status ∧ u.status = s.status

/-- 44_register_ops.md R225: CMDCLR leaves every override untouched and nothing else changed. -/
def Obligations.CmdclrUntouchesEveryOverride : Prop :=
  decodeOp 0x80000000 = .ok .cmdclr ∧ ∀ s,
    (∃ r : CmdRaw, (∀ F, (r.get F).valid = false ∧ (r.get F).value = 0x00)
      ∧ exec .cmdclr s = .next (answered 0x0000 { s with cmdTargetTemp := 0x0000, cmdRaw := r }))
    ∧ onlyLegalWord 0x8 0x80000000 s

/-! ## Invariants -/

/-- The four invariants below hold at reset. -/
def Obligations.InvariantsHoldAtReset : Prop :=
  RxInv State.reset ∧ TxInv State.reset ∧ AcInv State.reset ∧ RegInv State.reset

/-- 10_state.md R24, R27, 44_register_ops.md R222, 40_framer.md R125, R126: every step keeps the receive side's shape:
the count fits the framer state, no frame is in PARSING that is not complete, a retained frame has a matching
checksum, and RXBUF is 0 beyond RX_COUNT. -/
def Obligations.EveryStepKeepsTheReceiveInvariant : Prop :=
  ∀ s t : State, RxInv s → step s = .next t → RxInv t

/-- 10_state.md R29, 30_encoding.md R100, 41_checksum.md R152: every step keeps the transmit side empty or holding one
of the frames the block builds, checksum included, and 0x00 beyond it. -/
def Obligations.EveryStepKeepsTheTransmitInvariant : Prop :=
  ∀ s t : State, TxInv s → step s = .next t → TxInv t

/-- 43_encode_transmit.md R195, 42_decode.md R182: every step keeps the AC registers equal to the fields of LAST_SMALL,
and the two temperatures in their ranges. -/
def Obligations.EveryStepKeepsTheAcInvariant : Prop :=
  ∀ s t : State, AcInv s → step s = .next t → AcInv t

/-- 10_state.md R30, R31, R42: every step keeps the reserved bits of STATUS and IRQ_EN at 0 and every override value
within its field's width. -/
def Obligations.EveryStepKeepsTheRegisterInvariant : Prop :=
  ∀ s t : State, RegInv s → step s = .next t → RegInv t
end

