-- ==== Sys2Proof/Laws/Buffer.lean ====
section
/-! SUPPORT. Reading a byte of a buffer: after a run of bytes is written, of the empty buffers, and of the bytes a
buffer starts with. -/

namespace Sys2Proof.Machine

@[simp] theorem blit_nil (buf : Buf) (pos : Nat) : blit buf pos [] = buf := rfl

/-- Inside the written run the byte is the run's; outside it is the old one. -/
theorem blit_getElem (bs : List Byte) (buf : Buf) (pos i : Nat) (hi : i < 34) :
    (blit buf pos bs)[i] =
      if h : pos ≤ i ∧ i < pos + bs.length then bs[i - pos]'(by omega) else buf[i] := by
  induction bs generalizing buf pos with
  | nil => simp only [blit_nil, List.length_nil]; rw [dif_neg (by omega)]
  | cons b bs ih =>
    simp only [blit, ih, List.length_cons]
    by_cases h : pos = i
    · subst h
      rw [dif_neg (by omega), dif_pos (by omega)]
      simp
    · by_cases h1 : pos + 1 ≤ i ∧ i < pos + 1 + bs.length
      · rw [dif_pos h1, dif_pos (by omega)]
        have : i - pos = (i - (pos + 1)) + 1 := by omega
        simp [this]
      · rw [dif_neg h1, dif_neg (by omega)]
        simp [h]

/-- A byte outside the written run is as before. -/
theorem blit_getElem_outside {bs : List Byte} {buf : Buf} {pos i : Nat} {hi : i < 34}
    (h : i < pos ∨ pos + bs.length ≤ i) : (blit buf pos bs)[i] = buf[i] := by
  rw [blit_getElem, dif_neg (by omega)]

/-- A byte inside the written run is the run's. -/
theorem blit_getElem_inside {bs : List Byte} {buf : Buf} {pos i : Nat} {hi : i < 34}
    (h1 : pos ≤ i) (h2 : i < pos + bs.length) : (blit buf pos bs)[i] = bs[i - pos]'(by omega) := by
  rw [blit_getElem, dif_pos ⟨h1, h2⟩]

@[simp] theorem zeroBuf_getElem {i : Nat} (hi : i < 34) : zeroBuf[i] = 0#8 := by
  simp [zeroBuf]

theorem txEmptyBuf_getElem {i : Nat} (hi : i < 34) :
    txEmptyBuf[i] = if i = 3 then 0x80#8 else if i = 0 then 0xBB#8 else 0#8 := by
  simp only [txEmptyBuf, Vector.getElem_set, zeroBuf_getElem, Config.sof, Config.originModule, eq_comm]
  rfl

/-- A buffer written from its start begins with the written bytes. -/
theorem blit_toList_take {bs : List Byte} (buf : Buf) (h : bs.length ≤ 34) :
    (blit buf 0 bs).toList.take bs.length = bs := by
  apply List.ext_getElem
  · simp [h]
  · intro i h1 h2
    simp only [List.getElem_take, Vector.getElem_toList]
    rw [blit_getElem_inside (Nat.zero_le _) (by omega)]
    rfl

/-- The bytes written at the start of a buffer can be read from its list as from the written one. -/
theorem blit_toList_getD {bs : List Byte} {buf : Buf} {i : Nat} (h : i < bs.length) (h34 : i < 34) :
    (blit buf 0 bs).toList.getD i 0x00 = bs.getD i 0x00 := by
  rw [List.getD_eq_getElem _ _ (by simpa using h34), List.getD_eq_getElem _ _ h, Vector.getElem_toList,
    blit_getElem_inside (Nat.zero_le _) (by omega)]
  rfl

/-- A write inside the buffer at one index. -/
theorem setIfInBounds_getElem (buf : Buf) (n i : Nat) (b : Byte) (hi : i < 34) :
    (buf.setIfInBounds n b)[i] = if n = i then b else buf[i] := by
  simp [Vector.getElem_setIfInBounds]

end Sys2Proof.Machine
end

