-- ==== Sys2Proof/Laws/Checksum.lean ====
section
/-! SUPPORT. The checksum unit: what the accumulator of a sequence is built from, its bound, what a fold gives, and
the two bytes it is placed in (41_checksum.md R141 to R145). -/

namespace Sys2Proof.Machine

@[simp] theorem wordSum_nil : wordSum [] = 0 := rfl
@[simp] theorem wordSum_one (a : Byte) : wordSum [a] = a.toNat * 256 := rfl
@[simp] theorem wordSum_pair (a b : Byte) (rest : List Byte) :
    wordSum (a :: b :: rest) = a.toNat * 256 + b.toNat + wordSum rest := rfl

/-- Cutting a sequence at an even place cuts its sum. -/
theorem wordSum_append (xs ys : List Byte) (h : xs.length % 2 = 0) :
    wordSum (xs ++ ys) = wordSum xs + wordSum ys := by
  induction xs using wordSum.induct with
  | case1 => simp
  | case2 a => simp at h
  | case3 a b rest ih =>
    have hr : rest.length % 2 = 0 := by simp only [List.length_cons] at h; omega
    simp only [List.cons_append, wordSum_pair, ih hr]
    omega

/-- Each word adds at most 0xFFFF. -/
theorem wordSum_le (xs : List Byte) : wordSum xs ≤ 0xFFFF * ((xs.length + 1) / 2) := by
  induction xs using wordSum.induct with
  | case1 => simp
  | case2 a => have := a.isLt; simp only [wordSum_one, List.length_singleton]; omega
  | case3 a b rest ih =>
    have ha := a.isLt
    have hb := b.isLt
    have : (rest.length + 1 + 1 + 1) / 2 = (rest.length + 1) / 2 + 1 := by omega
    simp only [wordSum_pair, List.length_cons, this]
    omega

theorem foldOnce_le (acc : Nat) : foldOnce acc ≤ 0x1FFFE := by
  unfold foldOnce; omega

/-- A fold keeps the value modulo 0xFFFF, for a 32-bit accumulator. -/
theorem foldOnce_mod {acc : Nat} (h : acc < 2 ^ 32) : foldOnce acc % 0xFFFF = acc % 0xFFFF := by
  have hhi : acc / 65536 < 65536 := by omega
  unfold foldOnce
  rw [Nat.mod_eq_of_lt hhi]
  omega

/-- The iterated fold ends with a value of 16 bits, so its loop has ended (41_checksum.md R143). -/
theorem foldCarry_iterated_le (acc : Nat) : foldCarry .iterated acc ≤ 0xFFFF := by
  have h := foldOnce_le acc
  simp only [foldCarry, foldLoop]
  generalize foldOnce acc = f at h
  unfold foldOnce
  split_ifs <;> omega

/-- What the checksum is, as a number (41_checksum.md R144). -/
theorem checksumWith_toNat (mode : CsumFold) (xs : List Byte) :
    (checksumWith mode xs).toNat = 0xFFFF - foldCarry mode (wordSum xs) % 65536 := by
  simp only [checksumWith, BitVec.toNat_ofNat]
  omega

@[simp] theorem placeCsumWith_length (o : CsumOrder) (c : Half) : (placeCsumWith o c).length = 2 := by
  cases o <;> rfl

@[simp] theorem placeCsum_length (c : Half) : (placeCsum c).length = 2 :=
  placeCsumWith_length _ _

/-- The placed bytes determine the checksum. -/
theorem placeCsumWith_inj {o : CsumOrder} {c d : Half} (h : placeCsumWith o c = placeCsumWith o d) : c = d := by
  have key : c.extractLsb' 0 8 = d.extractLsb' 0 8 ∧ c.extractLsb' 8 8 = d.extractLsb' 8 8 := by
    cases o <;> simp only [placeCsumWith, List.cons.injEq, and_true] at h
    · exact h
    · exact h.symm
  have hj : ∀ x : Half, x = x.extractLsb' 8 8 ++ x.extractLsb' 0 8 := by
    intro x
    apply BitVec.eq_of_toNat_eq
    have := x.isLt
    simp only [BitVec.toNat_append, BitVec.extractLsb'_toNat, Nat.shiftLeft_eq, Nat.shiftRight_eq_div_pow]
    rw [← Nat.shiftLeft_eq, Nat.shiftLeft_add_eq_or_of_lt (by omega) _ |>.symm, Nat.shiftLeft_eq]
    omega
  rw [hj c, hj d, key.1, key.2]

end Sys2Proof.Machine
end

