-- ==== Sys2Proof/Laws/Fields.lean ====
section
/-! SUPPORT. The field primitives Get and Put (42_decode.md R172): what each gives bit by bit, and how a Put is seen
by a Get of the same field and of a disjoint one. -/

namespace Sys2Proof.Machine

@[simp] theorem putField_length (b : List Byte) (p : FieldPos) (v : Byte) :
    (putField b p v).length = b.length := by
  simp [putField]

theorem ones_getLsbD_table : ∀ w < 9, ∀ k < 8, ((1#8 <<< w) - 1#8).getLsbD k = decide (k < w) := by decide

theorem ones_toNat_table : ∀ w < 9, ((1#8 <<< w) - 1#8).toNat = 2 ^ w - 1 := by decide

/-- Bit k of a field's mask: set below its width. -/
theorem fieldOnes_getLsbD (p : FieldPos) (h : p.width ≤ 8) (k : Nat) :
    (fieldOnes p).getLsbD k = decide (k < p.width) := by
  by_cases hk : k < 8
  · exact ones_getLsbD_table _ (by omega) _ hk
  · rw [BitVec.getLsbD_of_ge _ _ (by omega)]
    simp only [Bool.false_eq, decide_eq_false_iff_not, not_lt]
    omega

/-- A value cut to a field's width is the value modulo two to the width. -/
theorem and_fieldOnes_toNat (p : FieldPos) (h : p.width ≤ 8) (v : Byte) :
    (v &&& fieldOnes p).toNat = v.toNat % 2 ^ p.width := by
  have : (fieldOnes p).toNat = 2 ^ p.width - 1 := ones_toNat_table _ (by omega)
  rw [BitVec.toNat_and, this, Nat.and_two_pow_sub_one_eq_mod]

/-- Bit k of what Get gives. -/
theorem getField_getLsbD (b : List Byte) (p : FieldPos) (h : p.width ≤ 8) (k : Nat) :
    (getField b p).getLsbD k = (decide (k < p.width) && (b.getD p.byte 0x00).getLsbD (p.lo + k)) := by
  simp only [getField, BitVec.getLsbD_and, BitVec.getLsbD_ushiftRight, fieldOnes_getLsbD p h]
  rw [Bool.and_comm]

/-- What Get gives, as a number. -/
theorem getField_toNat (b : List Byte) (p : FieldPos) (h : p.width ≤ 8) :
    (getField b p).toNat = (b.getD p.byte 0x00).toNat / 2 ^ p.lo % 2 ^ p.width := by
  simp only [getField]
  rw [and_fieldOnes_toNat p h, BitVec.toNat_ushiftRight, Nat.shiftRight_eq_div_pow]

/-- Bit k of byte j after a Put: the value's bit inside the field, the old bit outside it. -/
theorem putField_getLsbD (b : List Byte) (p : FieldPos) (v : Byte) (j k : Nat)
    (hb : p.byte < b.length) (hw : p.lo + p.width ≤ 8) (hk : k < 8) :
    ((putField b p v).getD j 0x00).getLsbD k =
      if j = p.byte ∧ p.lo ≤ k ∧ k < p.lo + p.width then v.getLsbD (k - p.lo)
      else (b.getD j 0x00).getLsbD k := by
  have hw8 : p.width ≤ 8 := by omega
  by_cases hj : j = p.byte
  · subst hj
    simp only [putField, List.getD_eq_getElem?_getD, List.getElem?_set_self hb, Option.getD_some,
      BitVec.getLsbD_or, BitVec.getLsbD_and, BitVec.getLsbD_not, BitVec.getLsbD_shiftLeft,
      fieldOnes_getLsbD p hw8, hk, decide_true, Bool.true_and, true_and]
    by_cases h1 : p.lo ≤ k
    · by_cases h2 : k < p.lo + p.width
      · have e1 : decide (k < p.lo) = false := by simpa using h1
        have e2 : decide (k - p.lo < p.width) = true := by simp only [decide_eq_true_eq]; omega
        simp [h1, h2, e1, e2]
      · have e2 : decide (k - p.lo < p.width) = false := by simp only [decide_eq_false_iff_not]; omega
        simp [h2, e2]
    · have e1 : decide (k < p.lo) = true := by simp only [decide_eq_true_eq]; omega
      simp [h1, e1]
  · have : (putField b p v).getD j 0x00 = b.getD j 0x00 := by
      simp only [putField, List.getD_eq_getElem?_getD]
      rw [List.getElem?_set_ne (fun h => hj h.symm)]
    rw [this, if_neg (fun h => hj h.1)]

/-- A Get of the field just put gives the value, cut to the width. -/
theorem getField_putField_same (b : List Byte) (p : FieldPos) (v : Byte)
    (hb : p.byte < b.length) (hw : p.lo + p.width ≤ 8) :
    getField (putField b p v) p = v &&& fieldOnes p := by
  apply BitVec.eq_of_getLsbD_eq
  intro k hk
  have hw8 : p.width ≤ 8 := by omega
  rw [getField_getLsbD _ _ hw8, BitVec.getLsbD_and, fieldOnes_getLsbD p hw8]
  by_cases h : k < p.width
  · rw [putField_getLsbD b p v _ _ hb hw (by omega), if_pos (by omega)]
    simp [h]
  · simp [h]

/-- A Get of a field disjoint from the one just put gives what it gave before. -/
theorem getField_putField_disjoint (b : List Byte) (p q : FieldPos) (v : Byte)
    (hb : p.byte < b.length) (hp : p.lo + p.width ≤ 8) (hq : q.lo + q.width ≤ 8)
    (hd : FieldPos.disjoint p q = true) :
    getField (putField b p v) q = getField b q := by
  apply BitVec.eq_of_getLsbD_eq
  intro k hk
  have hq8 : q.width ≤ 8 := by omega
  rw [getField_getLsbD _ _ hq8, getField_getLsbD _ _ hq8]
  by_cases h : k < q.width
  · simp only [FieldPos.disjoint, decide_eq_true_eq] at hd
    rw [putField_getLsbD b p v _ _ hb hp (by omega), if_neg (by omega)]
  · simp [h]

end Sys2Proof.Machine
end

