-- ==== Sys2Proof/Laws/Layout.lean ====
section
/-! SUPPORT. The layout the block has is well-formed (42_decode.md R171), whatever the open entries are; and what
that says of one entry and of two. -/

namespace Sys2Proof.Config

theorem standInLayout_wellFormed : wellFormedLayout standInLayout = true := by decide

@[simp] theorem layout_vLouver : layout .vLouver = vLouverPos := rfl

/-- The block's layout is well-formed. -/
theorem layout_wellFormed : wellFormedLayout layout = true := by
  by_cases h : wellFormedLayout openLayoutFixed = true
  · have : layout = openLayoutFixed := by
      funext f; cases f <;> simp [layout, h, openLayoutFixed]
    rw [this]; exact h
  · have : layout = standInLayout := by
      funext f; cases f <;> simp [layout, h, standInLayout]
    rw [this]; exact standInLayout_wellFormed

theorem mem_all (f : RawField) : f ∈ RawField.all := by
  cases f <;> decide

theorem layout_mem_entries (f : RawField) : layout f ∈ entries layout := by
  simp only [entries, List.mem_cons, List.mem_map]
  exact .inr (.inr ⟨f, mem_all f, rfl⟩)

/-- Every raw field lies in body bytes 2 to 14, inside one byte, and has a bit (42_decode.md R170). -/
theorem layout_bounds (f : RawField) :
    2 ≤ (layout f).byte ∧ (layout f).byte ≤ 14 ∧ (layout f).lo ≤ 7 ∧ 1 ≤ (layout f).width
      ∧ (layout f).lo + (layout f).width ≤ 8 := by
  have h := layout_wellFormed
  simp only [wellFormedLayout, Bool.and_eq_true, List.all_eq_true] at h
  simpa [FieldPos.admissible] using h.1.1 _ (layout_mem_entries f)

/-- The entries of the block's layout are pairwise disjoint (42_decode.md R171). -/
theorem entries_pairwise :
    (entries layout).Pairwise (fun p q => FieldPos.disjoint p q = true) := by
  have h := layout_wellFormed
  simp only [wellFormedLayout, Bool.and_eq_true, decide_eq_true_eq] at h
  exact h.1.2

theorem disjoint_comm (p q : FieldPos) : FieldPos.disjoint p q = FieldPos.disjoint q p := by
  simp only [FieldPos.disjoint, decide_eq_decide]
  constructor <;> (intro h; omega)

/-- Two different raw fields share no bit. -/
theorem layout_disjoint {f g : RawField} (h : f ≠ g) : FieldPos.disjoint (layout f) (layout g) = true := by
  have hp := entries_pairwise
  simp only [entries, RawField.all, List.map_cons, List.map_nil, List.pairwise_cons, List.mem_cons,
    List.not_mem_nil, or_false, forall_eq_or_imp, forall_eq] at hp
  cases f <;> cases g <;> first
    | exact absurd rfl h
    | (simp only [hp])
    | (rw [disjoint_comm]; simp only [hp])

/-- No raw field shares a bit with the target temperature's integer part. -/
theorem layout_disjoint_ttInt (f : RawField) : FieldPos.disjoint ttInt (layout f) = true := by
  have hp := (List.pairwise_cons.mp entries_pairwise).1
  exact hp _ (List.mem_cons.mpr (.inr (List.mem_map.mpr ⟨f, mem_all f, rfl⟩)))

/-- No raw field shares a bit with the target temperature's half-degree bit. -/
theorem layout_disjoint_ttHalf (f : RawField) : FieldPos.disjoint ttHalf (layout f) = true := by
  have hp := (List.pairwise_cons.mp (List.pairwise_cons.mp entries_pairwise).2).1
  exact hp _ (List.mem_map.mpr ⟨f, mem_all f, rfl⟩)

end Sys2Proof.Config
end

