-- ==== Sys2Proof/Laws/State.lean ====
section
/-! SUPPORT. What each state update gives each field of State: one lemma per field per update, true by rfl. -/

namespace Sys2Proof.Machine

variable (s : State)

/-! ### setEvent -/

@[simp] theorem setEvent_fstate (e : Event) : (setEvent e s).fstate = s.fstate := rfl
@[simp] theorem setEvent_rxBuf (e : Event) : (setEvent e s).rxBuf = s.rxBuf := rfl
@[simp] theorem setEvent_rxCount (e : Event) : (setEvent e s).rxCount = s.rxCount := rfl
@[simp] theorem setEvent_rxStart (e : Event) : (setEvent e s).rxStart = s.rxStart := rfl
@[simp] theorem setEvent_rxDone (e : Event) : (setEvent e s).rxDone = s.rxDone := rfl
@[simp] theorem setEvent_retained (e : Event) : (setEvent e s).retained = s.retained := rfl
@[simp] theorem setEvent_noiseLast (e : Event) : (setEvent e s).noiseLast = s.noiseLast := rfl
@[simp] theorem setEvent_txBuf (e : Event) : (setEvent e s).txBuf = s.txBuf := rfl
@[simp] theorem setEvent_txCount (e : Event) : (setEvent e s).txCount = s.txCount := rfl
@[simp] theorem setEvent_status (e : Event) : (setEvent e s).status = s.status ||| e.mask := rfl
@[simp] theorem setEvent_irqEn (e : Event) : (setEvent e s).irqEn = s.irqEn := rfl
@[simp] theorem setEvent_lastTxCsum (e : Event) : (setEvent e s).lastTxCsum = s.lastTxCsum := rfl
@[simp] theorem setEvent_parseResult (e : Event) : (setEvent e s).parseResult = s.parseResult := rfl
@[simp] theorem setEvent_acTargetTemp (e : Event) : (setEvent e s).acTargetTemp = s.acTargetTemp := rfl
@[simp] theorem setEvent_acAmbient (e : Event) : (setEvent e s).acAmbient = s.acAmbient := rfl
@[simp] theorem setEvent_acOutdoor (e : Event) : (setEvent e s).acOutdoor = s.acOutdoor := rfl
@[simp] theorem setEvent_acRaw (e : Event) : (setEvent e s).acRaw = s.acRaw := rfl
@[simp] theorem setEvent_smallValid (e : Event) : (setEvent e s).smallValid = s.smallValid := rfl
@[simp] theorem setEvent_bigValid (e : Event) : (setEvent e s).bigValid = s.bigValid := rfl
@[simp] theorem setEvent_lastSmall (e : Event) : (setEvent e s).lastSmall = s.lastSmall := rfl
@[simp] theorem setEvent_cmdTargetTemp (e : Event) : (setEvent e s).cmdTargetTemp = s.cmdTargetTemp := rfl
@[simp] theorem setEvent_cmdRaw (e : Event) : (setEvent e s).cmdRaw = s.cmdRaw := rfl
@[simp] theorem setEvent_inputs (e : Event) : (setEvent e s).inputs = s.inputs := rfl
@[simp] theorem setEvent_now (e : Event) : (setEvent e s).now = s.now := rfl
@[simp] theorem setEvent_rxPending (e : Event) : (setEvent e s).rxPending = s.rxPending := rfl
@[simp] theorem setEvent_result (e : Event) : (setEvent e s).result = s.result := rfl
@[simp] theorem setEvent_tx (e : Event) : (setEvent e s).tx = s.tx := rfl

/-! ### clearEvents -/

@[simp] theorem clearEvents_fstate (d : Half) : (clearEvents d s).fstate = s.fstate := rfl
@[simp] theorem clearEvents_rxBuf (d : Half) : (clearEvents d s).rxBuf = s.rxBuf := rfl
@[simp] theorem clearEvents_rxCount (d : Half) : (clearEvents d s).rxCount = s.rxCount := rfl
@[simp] theorem clearEvents_rxStart (d : Half) : (clearEvents d s).rxStart = s.rxStart := rfl
@[simp] theorem clearEvents_rxDone (d : Half) : (clearEvents d s).rxDone = s.rxDone := rfl
@[simp] theorem clearEvents_retained (d : Half) : (clearEvents d s).retained = s.retained := rfl
@[simp] theorem clearEvents_noiseLast (d : Half) : (clearEvents d s).noiseLast = s.noiseLast := rfl
@[simp] theorem clearEvents_txBuf (d : Half) : (clearEvents d s).txBuf = s.txBuf := rfl
@[simp] theorem clearEvents_txCount (d : Half) : (clearEvents d s).txCount = s.txCount := rfl
@[simp] theorem clearEvents_status (d : Half) : (clearEvents d s).status = s.status &&& ~~~(d &&& eventBits) := rfl
@[simp] theorem clearEvents_irqEn (d : Half) : (clearEvents d s).irqEn = s.irqEn := rfl
@[simp] theorem clearEvents_lastTxCsum (d : Half) : (clearEvents d s).lastTxCsum = s.lastTxCsum := rfl
@[simp] theorem clearEvents_parseResult (d : Half) : (clearEvents d s).parseResult = s.parseResult := rfl
@[simp] theorem clearEvents_acTargetTemp (d : Half) : (clearEvents d s).acTargetTemp = s.acTargetTemp := rfl
@[simp] theorem clearEvents_acAmbient (d : Half) : (clearEvents d s).acAmbient = s.acAmbient := rfl
@[simp] theorem clearEvents_acOutdoor (d : Half) : (clearEvents d s).acOutdoor = s.acOutdoor := rfl
@[simp] theorem clearEvents_acRaw (d : Half) : (clearEvents d s).acRaw = s.acRaw := rfl
@[simp] theorem clearEvents_smallValid (d : Half) : (clearEvents d s).smallValid = s.smallValid := rfl
@[simp] theorem clearEvents_bigValid (d : Half) : (clearEvents d s).bigValid = s.bigValid := rfl
@[simp] theorem clearEvents_lastSmall (d : Half) : (clearEvents d s).lastSmall = s.lastSmall := rfl
@[simp] theorem clearEvents_cmdTargetTemp (d : Half) : (clearEvents d s).cmdTargetTemp = s.cmdTargetTemp := rfl
@[simp] theorem clearEvents_cmdRaw (d : Half) : (clearEvents d s).cmdRaw = s.cmdRaw := rfl
@[simp] theorem clearEvents_inputs (d : Half) : (clearEvents d s).inputs = s.inputs := rfl
@[simp] theorem clearEvents_now (d : Half) : (clearEvents d s).now = s.now := rfl
@[simp] theorem clearEvents_rxPending (d : Half) : (clearEvents d s).rxPending = s.rxPending := rfl
@[simp] theorem clearEvents_result (d : Half) : (clearEvents d s).result = s.result := rfl
@[simp] theorem clearEvents_tx (d : Half) : (clearEvents d s).tx = s.tx := rfl

/-! ### writeIrqEn -/

@[simp] theorem writeIrqEn_fstate (d : Half) : (writeIrqEn d s).fstate = s.fstate := rfl
@[simp] theorem writeIrqEn_rxBuf (d : Half) : (writeIrqEn d s).rxBuf = s.rxBuf := rfl
@[simp] theorem writeIrqEn_rxCount (d : Half) : (writeIrqEn d s).rxCount = s.rxCount := rfl
@[simp] theorem writeIrqEn_rxStart (d : Half) : (writeIrqEn d s).rxStart = s.rxStart := rfl
@[simp] theorem writeIrqEn_rxDone (d : Half) : (writeIrqEn d s).rxDone = s.rxDone := rfl
@[simp] theorem writeIrqEn_retained (d : Half) : (writeIrqEn d s).retained = s.retained := rfl
@[simp] theorem writeIrqEn_noiseLast (d : Half) : (writeIrqEn d s).noiseLast = s.noiseLast := rfl
@[simp] theorem writeIrqEn_txBuf (d : Half) : (writeIrqEn d s).txBuf = s.txBuf := rfl
@[simp] theorem writeIrqEn_txCount (d : Half) : (writeIrqEn d s).txCount = s.txCount := rfl
@[simp] theorem writeIrqEn_status (d : Half) : (writeIrqEn d s).status = s.status := rfl
@[simp] theorem writeIrqEn_irqEn (d : Half) : (writeIrqEn d s).irqEn = d &&& eventBits := rfl
@[simp] theorem writeIrqEn_lastTxCsum (d : Half) : (writeIrqEn d s).lastTxCsum = s.lastTxCsum := rfl
@[simp] theorem writeIrqEn_parseResult (d : Half) : (writeIrqEn d s).parseResult = s.parseResult := rfl
@[simp] theorem writeIrqEn_acTargetTemp (d : Half) : (writeIrqEn d s).acTargetTemp = s.acTargetTemp := rfl
@[simp] theorem writeIrqEn_acAmbient (d : Half) : (writeIrqEn d s).acAmbient = s.acAmbient := rfl
@[simp] theorem writeIrqEn_acOutdoor (d : Half) : (writeIrqEn d s).acOutdoor = s.acOutdoor := rfl
@[simp] theorem writeIrqEn_acRaw (d : Half) : (writeIrqEn d s).acRaw = s.acRaw := rfl
@[simp] theorem writeIrqEn_smallValid (d : Half) : (writeIrqEn d s).smallValid = s.smallValid := rfl
@[simp] theorem writeIrqEn_bigValid (d : Half) : (writeIrqEn d s).bigValid = s.bigValid := rfl
@[simp] theorem writeIrqEn_lastSmall (d : Half) : (writeIrqEn d s).lastSmall = s.lastSmall := rfl
@[simp] theorem writeIrqEn_cmdTargetTemp (d : Half) : (writeIrqEn d s).cmdTargetTemp = s.cmdTargetTemp := rfl
@[simp] theorem writeIrqEn_cmdRaw (d : Half) : (writeIrqEn d s).cmdRaw = s.cmdRaw := rfl
@[simp] theorem writeIrqEn_inputs (d : Half) : (writeIrqEn d s).inputs = s.inputs := rfl
@[simp] theorem writeIrqEn_now (d : Half) : (writeIrqEn d s).now = s.now := rfl
@[simp] theorem writeIrqEn_rxPending (d : Half) : (writeIrqEn d s).rxPending = s.rxPending := rfl
@[simp] theorem writeIrqEn_result (d : Half) : (writeIrqEn d s).result = s.result := rfl
@[simp] theorem writeIrqEn_tx (d : Half) : (writeIrqEn d s).tx = s.tx := rfl

/-! ### finish -/

@[simp] theorem finish_fstate (r : Half) : (finish r s).fstate = s.fstate := rfl
@[simp] theorem finish_rxBuf (r : Half) : (finish r s).rxBuf = s.rxBuf := rfl
@[simp] theorem finish_rxCount (r : Half) : (finish r s).rxCount = s.rxCount := rfl
@[simp] theorem finish_rxStart (r : Half) : (finish r s).rxStart = s.rxStart := rfl
@[simp] theorem finish_rxDone (r : Half) : (finish r s).rxDone = s.rxDone := rfl
@[simp] theorem finish_retained (r : Half) : (finish r s).retained = s.retained := rfl
@[simp] theorem finish_noiseLast (r : Half) : (finish r s).noiseLast = s.noiseLast := rfl
@[simp] theorem finish_txBuf (r : Half) : (finish r s).txBuf = s.txBuf := rfl
@[simp] theorem finish_txCount (r : Half) : (finish r s).txCount = s.txCount := rfl
@[simp] theorem finish_status (r : Half) : (finish r s).status = s.status := rfl
@[simp] theorem finish_irqEn (r : Half) : (finish r s).irqEn = s.irqEn := rfl
@[simp] theorem finish_lastTxCsum (r : Half) : (finish r s).lastTxCsum = s.lastTxCsum := rfl
@[simp] theorem finish_parseResult (r : Half) : (finish r s).parseResult = s.parseResult := rfl
@[simp] theorem finish_acTargetTemp (r : Half) : (finish r s).acTargetTemp = s.acTargetTemp := rfl
@[simp] theorem finish_acAmbient (r : Half) : (finish r s).acAmbient = s.acAmbient := rfl
@[simp] theorem finish_acOutdoor (r : Half) : (finish r s).acOutdoor = s.acOutdoor := rfl
@[simp] theorem finish_acRaw (r : Half) : (finish r s).acRaw = s.acRaw := rfl
@[simp] theorem finish_smallValid (r : Half) : (finish r s).smallValid = s.smallValid := rfl
@[simp] theorem finish_bigValid (r : Half) : (finish r s).bigValid = s.bigValid := rfl
@[simp] theorem finish_lastSmall (r : Half) : (finish r s).lastSmall = s.lastSmall := rfl
@[simp] theorem finish_cmdTargetTemp (r : Half) : (finish r s).cmdTargetTemp = s.cmdTargetTemp := rfl
@[simp] theorem finish_cmdRaw (r : Half) : (finish r s).cmdRaw = s.cmdRaw := rfl
@[simp] theorem finish_inputs (r : Half) : (finish r s).inputs = s.inputs := rfl
@[simp] theorem finish_now (r : Half) : (finish r s).now = s.now := rfl
@[simp] theorem finish_rxPending (r : Half) : (finish r s).rxPending = s.rxPending := rfl
@[simp] theorem finish_result (r : Half) : (finish r s).result = r := rfl
@[simp] theorem finish_tx (r : Half) : (finish r s).tx = none := rfl

/-! ### finishTx -/

@[simp] theorem finishTx_fstate (r : Half) (bs : List Byte) : (finishTx r bs s).fstate = s.fstate := rfl
@[simp] theorem finishTx_rxBuf (r : Half) (bs : List Byte) : (finishTx r bs s).rxBuf = s.rxBuf := rfl
@[simp] theorem finishTx_rxCount (r : Half) (bs : List Byte) : (finishTx r bs s).rxCount = s.rxCount := rfl
@[simp] theorem finishTx_rxStart (r : Half) (bs : List Byte) : (finishTx r bs s).rxStart = s.rxStart := rfl
@[simp] theorem finishTx_rxDone (r : Half) (bs : List Byte) : (finishTx r bs s).rxDone = s.rxDone := rfl
@[simp] theorem finishTx_retained (r : Half) (bs : List Byte) : (finishTx r bs s).retained = s.retained := rfl
@[simp] theorem finishTx_noiseLast (r : Half) (bs : List Byte) : (finishTx r bs s).noiseLast = s.noiseLast := rfl
@[simp] theorem finishTx_txBuf (r : Half) (bs : List Byte) : (finishTx r bs s).txBuf = s.txBuf := rfl
@[simp] theorem finishTx_txCount (r : Half) (bs : List Byte) : (finishTx r bs s).txCount = s.txCount := rfl
@[simp] theorem finishTx_status (r : Half) (bs : List Byte) : (finishTx r bs s).status = s.status := rfl
@[simp] theorem finishTx_irqEn (r : Half) (bs : List Byte) : (finishTx r bs s).irqEn = s.irqEn := rfl
@[simp] theorem finishTx_lastTxCsum (r : Half) (bs : List Byte) : (finishTx r bs s).lastTxCsum = s.lastTxCsum := rfl
@[simp] theorem finishTx_parseResult (r : Half) (bs : List Byte) : (finishTx r bs s).parseResult = s.parseResult := rfl
@[simp] theorem finishTx_acTargetTemp (r : Half) (bs : List Byte) : (finishTx r bs s).acTargetTemp = s.acTargetTemp := rfl
@[simp] theorem finishTx_acAmbient (r : Half) (bs : List Byte) : (finishTx r bs s).acAmbient = s.acAmbient := rfl
@[simp] theorem finishTx_acOutdoor (r : Half) (bs : List Byte) : (finishTx r bs s).acOutdoor = s.acOutdoor := rfl
@[simp] theorem finishTx_acRaw (r : Half) (bs : List Byte) : (finishTx r bs s).acRaw = s.acRaw := rfl
@[simp] theorem finishTx_smallValid (r : Half) (bs : List Byte) : (finishTx r bs s).smallValid = s.smallValid := rfl
@[simp] theorem finishTx_bigValid (r : Half) (bs : List Byte) : (finishTx r bs s).bigValid = s.bigValid := rfl
@[simp] theorem finishTx_lastSmall (r : Half) (bs : List Byte) : (finishTx r bs s).lastSmall = s.lastSmall := rfl
@[simp] theorem finishTx_cmdTargetTemp (r : Half) (bs : List Byte) : (finishTx r bs s).cmdTargetTemp = s.cmdTargetTemp := rfl
@[simp] theorem finishTx_cmdRaw (r : Half) (bs : List Byte) : (finishTx r bs s).cmdRaw = s.cmdRaw := rfl
@[simp] theorem finishTx_inputs (r : Half) (bs : List Byte) : (finishTx r bs s).inputs = s.inputs := rfl
@[simp] theorem finishTx_now (r : Half) (bs : List Byte) : (finishTx r bs s).now = s.now := rfl
@[simp] theorem finishTx_rxPending (r : Half) (bs : List Byte) : (finishTx r bs s).rxPending = s.rxPending := rfl
@[simp] theorem finishTx_result (r : Half) (bs : List Byte) : (finishTx r bs s).result = r := rfl
@[simp] theorem finishTx_tx (r : Half) (bs : List Byte) : (finishTx r bs s).tx = some bs := rfl

/-! ### raiseOpErr -/

@[simp] theorem raiseOpErr_fstate (c : OpErrCause) : (raiseOpErr c s).fstate = s.fstate := rfl
@[simp] theorem raiseOpErr_rxBuf (c : OpErrCause) : (raiseOpErr c s).rxBuf = s.rxBuf := rfl
@[simp] theorem raiseOpErr_rxCount (c : OpErrCause) : (raiseOpErr c s).rxCount = s.rxCount := rfl
@[simp] theorem raiseOpErr_rxStart (c : OpErrCause) : (raiseOpErr c s).rxStart = s.rxStart := rfl
@[simp] theorem raiseOpErr_rxDone (c : OpErrCause) : (raiseOpErr c s).rxDone = s.rxDone := rfl
@[simp] theorem raiseOpErr_retained (c : OpErrCause) : (raiseOpErr c s).retained = s.retained := rfl
@[simp] theorem raiseOpErr_noiseLast (c : OpErrCause) : (raiseOpErr c s).noiseLast = s.noiseLast := rfl
@[simp] theorem raiseOpErr_txBuf (c : OpErrCause) : (raiseOpErr c s).txBuf = s.txBuf := rfl
@[simp] theorem raiseOpErr_txCount (c : OpErrCause) : (raiseOpErr c s).txCount = s.txCount := rfl
@[simp] theorem raiseOpErr_status (c : OpErrCause) : (raiseOpErr c s).status = s.status ||| Event.opErr.mask := rfl
@[simp] theorem raiseOpErr_irqEn (c : OpErrCause) : (raiseOpErr c s).irqEn = s.irqEn := rfl
@[simp] theorem raiseOpErr_lastTxCsum (c : OpErrCause) : (raiseOpErr c s).lastTxCsum = s.lastTxCsum := rfl
@[simp] theorem raiseOpErr_parseResult (c : OpErrCause) : (raiseOpErr c s).parseResult = s.parseResult := rfl
@[simp] theorem raiseOpErr_acTargetTemp (c : OpErrCause) : (raiseOpErr c s).acTargetTemp = s.acTargetTemp := rfl
@[simp] theorem raiseOpErr_acAmbient (c : OpErrCause) : (raiseOpErr c s).acAmbient = s.acAmbient := rfl
@[simp] theorem raiseOpErr_acOutdoor (c : OpErrCause) : (raiseOpErr c s).acOutdoor = s.acOutdoor := rfl
@[simp] theorem raiseOpErr_acRaw (c : OpErrCause) : (raiseOpErr c s).acRaw = s.acRaw := rfl
@[simp] theorem raiseOpErr_smallValid (c : OpErrCause) : (raiseOpErr c s).smallValid = s.smallValid := rfl
@[simp] theorem raiseOpErr_bigValid (c : OpErrCause) : (raiseOpErr c s).bigValid = s.bigValid := rfl
@[simp] theorem raiseOpErr_lastSmall (c : OpErrCause) : (raiseOpErr c s).lastSmall = s.lastSmall := rfl
@[simp] theorem raiseOpErr_cmdTargetTemp (c : OpErrCause) : (raiseOpErr c s).cmdTargetTemp = s.cmdTargetTemp := rfl
@[simp] theorem raiseOpErr_cmdRaw (c : OpErrCause) : (raiseOpErr c s).cmdRaw = s.cmdRaw := rfl
@[simp] theorem raiseOpErr_inputs (c : OpErrCause) : (raiseOpErr c s).inputs = s.inputs := rfl
@[simp] theorem raiseOpErr_now (c : OpErrCause) : (raiseOpErr c s).now = s.now := rfl
@[simp] theorem raiseOpErr_rxPending (c : OpErrCause) : (raiseOpErr c s).rxPending = s.rxPending := rfl
@[simp] theorem raiseOpErr_result (c : OpErrCause) : (raiseOpErr c s).result = 0xFFFF := rfl
@[simp] theorem raiseOpErr_tx (c : OpErrCause) : (raiseOpErr c s).tx = none := rfl

/-! ### resetRx -/

@[simp] theorem resetRx_fstate : (resetRx s).fstate = s.fstate := rfl
@[simp] theorem resetRx_rxBuf : (resetRx s).rxBuf = zeroBuf := rfl
@[simp] theorem resetRx_rxCount : (resetRx s).rxCount = 0 := rfl
@[simp] theorem resetRx_rxStart : (resetRx s).rxStart = s.rxStart := rfl
@[simp] theorem resetRx_rxDone : (resetRx s).rxDone = s.rxDone := rfl
@[simp] theorem resetRx_retained : (resetRx s).retained = false := rfl
@[simp] theorem resetRx_noiseLast : (resetRx s).noiseLast = s.noiseLast := rfl
@[simp] theorem resetRx_txBuf : (resetRx s).txBuf = s.txBuf := rfl
@[simp] theorem resetRx_txCount : (resetRx s).txCount = s.txCount := rfl
@[simp] theorem resetRx_status : (resetRx s).status = s.status := rfl
@[simp] theorem resetRx_irqEn : (resetRx s).irqEn = s.irqEn := rfl
@[simp] theorem resetRx_lastTxCsum : (resetRx s).lastTxCsum = s.lastTxCsum := rfl
@[simp] theorem resetRx_parseResult : (resetRx s).parseResult = s.parseResult := rfl
@[simp] theorem resetRx_acTargetTemp : (resetRx s).acTargetTemp = s.acTargetTemp := rfl
@[simp] theorem resetRx_acAmbient : (resetRx s).acAmbient = s.acAmbient := rfl
@[simp] theorem resetRx_acOutdoor : (resetRx s).acOutdoor = s.acOutdoor := rfl
@[simp] theorem resetRx_acRaw : (resetRx s).acRaw = s.acRaw := rfl
@[simp] theorem resetRx_smallValid : (resetRx s).smallValid = s.smallValid := rfl
@[simp] theorem resetRx_bigValid : (resetRx s).bigValid = s.bigValid := rfl
@[simp] theorem resetRx_lastSmall : (resetRx s).lastSmall = s.lastSmall := rfl
@[simp] theorem resetRx_cmdTargetTemp : (resetRx s).cmdTargetTemp = s.cmdTargetTemp := rfl
@[simp] theorem resetRx_cmdRaw : (resetRx s).cmdRaw = s.cmdRaw := rfl
@[simp] theorem resetRx_inputs : (resetRx s).inputs = s.inputs := rfl
@[simp] theorem resetRx_now : (resetRx s).now = s.now := rfl
@[simp] theorem resetRx_rxPending : (resetRx s).rxPending = s.rxPending := rfl
@[simp] theorem resetRx_result : (resetRx s).result = s.result := rfl
@[simp] theorem resetRx_tx : (resetRx s).tx = s.tx := rfl

/-! ### setFState -/

@[simp] theorem setFState_fstate (f : FState) : (setFState f s).fstate = f := rfl
@[simp] theorem setFState_rxBuf (f : FState) : (setFState f s).rxBuf = s.rxBuf := rfl
@[simp] theorem setFState_rxCount (f : FState) : (setFState f s).rxCount = s.rxCount := rfl
@[simp] theorem setFState_rxStart (f : FState) : (setFState f s).rxStart = s.rxStart := rfl
@[simp] theorem setFState_rxDone (f : FState) : (setFState f s).rxDone = s.rxDone := rfl
@[simp] theorem setFState_retained (f : FState) : (setFState f s).retained = s.retained := rfl
@[simp] theorem setFState_noiseLast (f : FState) : (setFState f s).noiseLast = s.noiseLast := rfl
@[simp] theorem setFState_txBuf (f : FState) : (setFState f s).txBuf = s.txBuf := rfl
@[simp] theorem setFState_txCount (f : FState) : (setFState f s).txCount = s.txCount := rfl
@[simp] theorem setFState_status (f : FState) : (setFState f s).status = s.status := rfl
@[simp] theorem setFState_irqEn (f : FState) : (setFState f s).irqEn = s.irqEn := rfl
@[simp] theorem setFState_lastTxCsum (f : FState) : (setFState f s).lastTxCsum = s.lastTxCsum := rfl
@[simp] theorem setFState_parseResult (f : FState) : (setFState f s).parseResult = s.parseResult := rfl
@[simp] theorem setFState_acTargetTemp (f : FState) : (setFState f s).acTargetTemp = s.acTargetTemp := rfl
@[simp] theorem setFState_acAmbient (f : FState) : (setFState f s).acAmbient = s.acAmbient := rfl
@[simp] theorem setFState_acOutdoor (f : FState) : (setFState f s).acOutdoor = s.acOutdoor := rfl
@[simp] theorem setFState_acRaw (f : FState) : (setFState f s).acRaw = s.acRaw := rfl
@[simp] theorem setFState_smallValid (f : FState) : (setFState f s).smallValid = s.smallValid := rfl
@[simp] theorem setFState_bigValid (f : FState) : (setFState f s).bigValid = s.bigValid := rfl
@[simp] theorem setFState_lastSmall (f : FState) : (setFState f s).lastSmall = s.lastSmall := rfl
@[simp] theorem setFState_cmdTargetTemp (f : FState) : (setFState f s).cmdTargetTemp = s.cmdTargetTemp := rfl
@[simp] theorem setFState_cmdRaw (f : FState) : (setFState f s).cmdRaw = s.cmdRaw := rfl
@[simp] theorem setFState_inputs (f : FState) : (setFState f s).inputs = s.inputs := rfl
@[simp] theorem setFState_now (f : FState) : (setFState f s).now = s.now := rfl
@[simp] theorem setFState_rxPending (f : FState) : (setFState f s).rxPending = s.rxPending := rfl
@[simp] theorem setFState_result (f : FState) : (setFState f s).result = s.result := rfl
@[simp] theorem setFState_tx (f : FState) : (setFState f s).tx = s.tx := rfl

/-! ### appendRx -/

@[simp] theorem appendRx_fstate (b : Byte) : (appendRx b s).fstate = s.fstate := rfl
@[simp] theorem appendRx_rxBuf (b : Byte) : (appendRx b s).rxBuf = s.rxBuf.setIfInBounds s.rxCount b := rfl
@[simp] theorem appendRx_rxCount (b : Byte) : (appendRx b s).rxCount = s.rxCount + 1 := rfl
@[simp] theorem appendRx_rxStart (b : Byte) : (appendRx b s).rxStart = s.rxStart := rfl
@[simp] theorem appendRx_rxDone (b : Byte) : (appendRx b s).rxDone = s.rxDone := rfl
@[simp] theorem appendRx_retained (b : Byte) : (appendRx b s).retained = s.retained := rfl
@[simp] theorem appendRx_noiseLast (b : Byte) : (appendRx b s).noiseLast = s.noiseLast := rfl
@[simp] theorem appendRx_txBuf (b : Byte) : (appendRx b s).txBuf = s.txBuf := rfl
@[simp] theorem appendRx_txCount (b : Byte) : (appendRx b s).txCount = s.txCount := rfl
@[simp] theorem appendRx_status (b : Byte) : (appendRx b s).status = s.status := rfl
@[simp] theorem appendRx_irqEn (b : Byte) : (appendRx b s).irqEn = s.irqEn := rfl
@[simp] theorem appendRx_lastTxCsum (b : Byte) : (appendRx b s).lastTxCsum = s.lastTxCsum := rfl
@[simp] theorem appendRx_parseResult (b : Byte) : (appendRx b s).parseResult = s.parseResult := rfl
@[simp] theorem appendRx_acTargetTemp (b : Byte) : (appendRx b s).acTargetTemp = s.acTargetTemp := rfl
@[simp] theorem appendRx_acAmbient (b : Byte) : (appendRx b s).acAmbient = s.acAmbient := rfl
@[simp] theorem appendRx_acOutdoor (b : Byte) : (appendRx b s).acOutdoor = s.acOutdoor := rfl
@[simp] theorem appendRx_acRaw (b : Byte) : (appendRx b s).acRaw = s.acRaw := rfl
@[simp] theorem appendRx_smallValid (b : Byte) : (appendRx b s).smallValid = s.smallValid := rfl
@[simp] theorem appendRx_bigValid (b : Byte) : (appendRx b s).bigValid = s.bigValid := rfl
@[simp] theorem appendRx_lastSmall (b : Byte) : (appendRx b s).lastSmall = s.lastSmall := rfl
@[simp] theorem appendRx_cmdTargetTemp (b : Byte) : (appendRx b s).cmdTargetTemp = s.cmdTargetTemp := rfl
@[simp] theorem appendRx_cmdRaw (b : Byte) : (appendRx b s).cmdRaw = s.cmdRaw := rfl
@[simp] theorem appendRx_inputs (b : Byte) : (appendRx b s).inputs = s.inputs := rfl
@[simp] theorem appendRx_now (b : Byte) : (appendRx b s).now = s.now := rfl
@[simp] theorem appendRx_rxPending (b : Byte) : (appendRx b s).rxPending = s.rxPending := rfl
@[simp] theorem appendRx_result (b : Byte) : (appendRx b s).result = s.result := rfl
@[simp] theorem appendRx_tx (b : Byte) : (appendRx b s).tx = s.tx := rfl

/-! ### setNoiseLast -/

@[simp] theorem setNoiseLast_fstate (n : Nat) : (setNoiseLast n s).fstate = s.fstate := rfl
@[simp] theorem setNoiseLast_rxBuf (n : Nat) : (setNoiseLast n s).rxBuf = s.rxBuf := rfl
@[simp] theorem setNoiseLast_rxCount (n : Nat) : (setNoiseLast n s).rxCount = s.rxCount := rfl
@[simp] theorem setNoiseLast_rxStart (n : Nat) : (setNoiseLast n s).rxStart = s.rxStart := rfl
@[simp] theorem setNoiseLast_rxDone (n : Nat) : (setNoiseLast n s).rxDone = s.rxDone := rfl
@[simp] theorem setNoiseLast_retained (n : Nat) : (setNoiseLast n s).retained = s.retained := rfl
@[simp] theorem setNoiseLast_noiseLast (n : Nat) : (setNoiseLast n s).noiseLast = n := rfl
@[simp] theorem setNoiseLast_txBuf (n : Nat) : (setNoiseLast n s).txBuf = s.txBuf := rfl
@[simp] theorem setNoiseLast_txCount (n : Nat) : (setNoiseLast n s).txCount = s.txCount := rfl
@[simp] theorem setNoiseLast_status (n : Nat) : (setNoiseLast n s).status = s.status := rfl
@[simp] theorem setNoiseLast_irqEn (n : Nat) : (setNoiseLast n s).irqEn = s.irqEn := rfl
@[simp] theorem setNoiseLast_lastTxCsum (n : Nat) : (setNoiseLast n s).lastTxCsum = s.lastTxCsum := rfl
@[simp] theorem setNoiseLast_parseResult (n : Nat) : (setNoiseLast n s).parseResult = s.parseResult := rfl
@[simp] theorem setNoiseLast_acTargetTemp (n : Nat) : (setNoiseLast n s).acTargetTemp = s.acTargetTemp := rfl
@[simp] theorem setNoiseLast_acAmbient (n : Nat) : (setNoiseLast n s).acAmbient = s.acAmbient := rfl
@[simp] theorem setNoiseLast_acOutdoor (n : Nat) : (setNoiseLast n s).acOutdoor = s.acOutdoor := rfl
@[simp] theorem setNoiseLast_acRaw (n : Nat) : (setNoiseLast n s).acRaw = s.acRaw := rfl
@[simp] theorem setNoiseLast_smallValid (n : Nat) : (setNoiseLast n s).smallValid = s.smallValid := rfl
@[simp] theorem setNoiseLast_bigValid (n : Nat) : (setNoiseLast n s).bigValid = s.bigValid := rfl
@[simp] theorem setNoiseLast_lastSmall (n : Nat) : (setNoiseLast n s).lastSmall = s.lastSmall := rfl
@[simp] theorem setNoiseLast_cmdTargetTemp (n : Nat) : (setNoiseLast n s).cmdTargetTemp = s.cmdTargetTemp := rfl
@[simp] theorem setNoiseLast_cmdRaw (n : Nat) : (setNoiseLast n s).cmdRaw = s.cmdRaw := rfl
@[simp] theorem setNoiseLast_inputs (n : Nat) : (setNoiseLast n s).inputs = s.inputs := rfl
@[simp] theorem setNoiseLast_now (n : Nat) : (setNoiseLast n s).now = s.now := rfl
@[simp] theorem setNoiseLast_rxPending (n : Nat) : (setNoiseLast n s).rxPending = s.rxPending := rfl
@[simp] theorem setNoiseLast_result (n : Nat) : (setNoiseLast n s).result = s.result := rfl
@[simp] theorem setNoiseLast_tx (n : Nat) : (setNoiseLast n s).tx = s.tx := rfl

/-! ### stampStart -/

@[simp] theorem stampStart_fstate : (stampStart s).fstate = s.fstate := rfl
@[simp] theorem stampStart_rxBuf : (stampStart s).rxBuf = s.rxBuf := rfl
@[simp] theorem stampStart_rxCount : (stampStart s).rxCount = s.rxCount := rfl
@[simp] theorem stampStart_rxStart : (stampStart s).rxStart = s.now := rfl
@[simp] theorem stampStart_rxDone : (stampStart s).rxDone = s.rxDone := rfl
@[simp] theorem stampStart_retained : (stampStart s).retained = s.retained := rfl
@[simp] theorem stampStart_noiseLast : (stampStart s).noiseLast = s.noiseLast := rfl
@[simp] theorem stampStart_txBuf : (stampStart s).txBuf = s.txBuf := rfl
@[simp] theorem stampStart_txCount : (stampStart s).txCount = s.txCount := rfl
@[simp] theorem stampStart_status : (stampStart s).status = s.status := rfl
@[simp] theorem stampStart_irqEn : (stampStart s).irqEn = s.irqEn := rfl
@[simp] theorem stampStart_lastTxCsum : (stampStart s).lastTxCsum = s.lastTxCsum := rfl
@[simp] theorem stampStart_parseResult : (stampStart s).parseResult = s.parseResult := rfl
@[simp] theorem stampStart_acTargetTemp : (stampStart s).acTargetTemp = s.acTargetTemp := rfl
@[simp] theorem stampStart_acAmbient : (stampStart s).acAmbient = s.acAmbient := rfl
@[simp] theorem stampStart_acOutdoor : (stampStart s).acOutdoor = s.acOutdoor := rfl
@[simp] theorem stampStart_acRaw : (stampStart s).acRaw = s.acRaw := rfl
@[simp] theorem stampStart_smallValid : (stampStart s).smallValid = s.smallValid := rfl
@[simp] theorem stampStart_bigValid : (stampStart s).bigValid = s.bigValid := rfl
@[simp] theorem stampStart_lastSmall : (stampStart s).lastSmall = s.lastSmall := rfl
@[simp] theorem stampStart_cmdTargetTemp : (stampStart s).cmdTargetTemp = s.cmdTargetTemp := rfl
@[simp] theorem stampStart_cmdRaw : (stampStart s).cmdRaw = s.cmdRaw := rfl
@[simp] theorem stampStart_inputs : (stampStart s).inputs = s.inputs := rfl
@[simp] theorem stampStart_now : (stampStart s).now = s.now := rfl
@[simp] theorem stampStart_rxPending : (stampStart s).rxPending = s.rxPending := rfl
@[simp] theorem stampStart_result : (stampStart s).result = s.result := rfl
@[simp] theorem stampStart_tx : (stampStart s).tx = s.tx := rfl

/-! ### stampDone -/

@[simp] theorem stampDone_fstate : (stampDone s).fstate = s.fstate := rfl
@[simp] theorem stampDone_rxBuf : (stampDone s).rxBuf = s.rxBuf := rfl
@[simp] theorem stampDone_rxCount : (stampDone s).rxCount = s.rxCount := rfl
@[simp] theorem stampDone_rxStart : (stampDone s).rxStart = s.rxStart := rfl
@[simp] theorem stampDone_rxDone : (stampDone s).rxDone = s.now := rfl
@[simp] theorem stampDone_retained : (stampDone s).retained = s.retained := rfl
@[simp] theorem stampDone_noiseLast : (stampDone s).noiseLast = s.noiseLast := rfl
@[simp] theorem stampDone_txBuf : (stampDone s).txBuf = s.txBuf := rfl
@[simp] theorem stampDone_txCount : (stampDone s).txCount = s.txCount := rfl
@[simp] theorem stampDone_status : (stampDone s).status = s.status := rfl
@[simp] theorem stampDone_irqEn : (stampDone s).irqEn = s.irqEn := rfl
@[simp] theorem stampDone_lastTxCsum : (stampDone s).lastTxCsum = s.lastTxCsum := rfl
@[simp] theorem stampDone_parseResult : (stampDone s).parseResult = s.parseResult := rfl
@[simp] theorem stampDone_acTargetTemp : (stampDone s).acTargetTemp = s.acTargetTemp := rfl
@[simp] theorem stampDone_acAmbient : (stampDone s).acAmbient = s.acAmbient := rfl
@[simp] theorem stampDone_acOutdoor : (stampDone s).acOutdoor = s.acOutdoor := rfl
@[simp] theorem stampDone_acRaw : (stampDone s).acRaw = s.acRaw := rfl
@[simp] theorem stampDone_smallValid : (stampDone s).smallValid = s.smallValid := rfl
@[simp] theorem stampDone_bigValid : (stampDone s).bigValid = s.bigValid := rfl
@[simp] theorem stampDone_lastSmall : (stampDone s).lastSmall = s.lastSmall := rfl
@[simp] theorem stampDone_cmdTargetTemp : (stampDone s).cmdTargetTemp = s.cmdTargetTemp := rfl
@[simp] theorem stampDone_cmdRaw : (stampDone s).cmdRaw = s.cmdRaw := rfl
@[simp] theorem stampDone_inputs : (stampDone s).inputs = s.inputs := rfl
@[simp] theorem stampDone_now : (stampDone s).now = s.now := rfl
@[simp] theorem stampDone_rxPending : (stampDone s).rxPending = s.rxPending := rfl
@[simp] theorem stampDone_result : (stampDone s).result = s.result := rfl
@[simp] theorem stampDone_tx : (stampDone s).tx = s.tx := rfl

/-! ### dropTimedOut -/

@[simp] theorem dropTimedOut_fstate : (dropTimedOut s).fstate = .hunt := rfl
@[simp] theorem dropTimedOut_rxBuf : (dropTimedOut s).rxBuf = zeroBuf := rfl
@[simp] theorem dropTimedOut_rxCount : (dropTimedOut s).rxCount = 0 := rfl
@[simp] theorem dropTimedOut_rxStart : (dropTimedOut s).rxStart = s.rxStart := rfl
@[simp] theorem dropTimedOut_rxDone : (dropTimedOut s).rxDone = s.rxDone := rfl
@[simp] theorem dropTimedOut_retained : (dropTimedOut s).retained = false := rfl
@[simp] theorem dropTimedOut_noiseLast : (dropTimedOut s).noiseLast = s.noiseLast := rfl
@[simp] theorem dropTimedOut_txBuf : (dropTimedOut s).txBuf = s.txBuf := rfl
@[simp] theorem dropTimedOut_txCount : (dropTimedOut s).txCount = s.txCount := rfl
@[simp] theorem dropTimedOut_status : (dropTimedOut s).status = s.status ||| Event.rxTimeout.mask := rfl
@[simp] theorem dropTimedOut_irqEn : (dropTimedOut s).irqEn = s.irqEn := rfl
@[simp] theorem dropTimedOut_lastTxCsum : (dropTimedOut s).lastTxCsum = s.lastTxCsum := rfl
@[simp] theorem dropTimedOut_parseResult : (dropTimedOut s).parseResult = s.parseResult := rfl
@[simp] theorem dropTimedOut_acTargetTemp : (dropTimedOut s).acTargetTemp = s.acTargetTemp := rfl
@[simp] theorem dropTimedOut_acAmbient : (dropTimedOut s).acAmbient = s.acAmbient := rfl
@[simp] theorem dropTimedOut_acOutdoor : (dropTimedOut s).acOutdoor = s.acOutdoor := rfl
@[simp] theorem dropTimedOut_acRaw : (dropTimedOut s).acRaw = s.acRaw := rfl
@[simp] theorem dropTimedOut_smallValid : (dropTimedOut s).smallValid = s.smallValid := rfl
@[simp] theorem dropTimedOut_bigValid : (dropTimedOut s).bigValid = s.bigValid := rfl
@[simp] theorem dropTimedOut_lastSmall : (dropTimedOut s).lastSmall = s.lastSmall := rfl
@[simp] theorem dropTimedOut_cmdTargetTemp : (dropTimedOut s).cmdTargetTemp = s.cmdTargetTemp := rfl
@[simp] theorem dropTimedOut_cmdRaw : (dropTimedOut s).cmdRaw = s.cmdRaw := rfl
@[simp] theorem dropTimedOut_inputs : (dropTimedOut s).inputs = s.inputs := rfl
@[simp] theorem dropTimedOut_now : (dropTimedOut s).now = s.now := rfl
@[simp] theorem dropTimedOut_rxPending : (dropTimedOut s).rxPending = s.rxPending := rfl
@[simp] theorem dropTimedOut_result : (dropTimedOut s).result = s.result := rfl
@[simp] theorem dropTimedOut_tx : (dropTimedOut s).tx = s.tx := rfl

/-! ### dropOverflow -/

@[simp] theorem dropOverflow_fstate : (dropOverflow s).fstate = .hunt := rfl
@[simp] theorem dropOverflow_rxBuf : (dropOverflow s).rxBuf = zeroBuf := rfl
@[simp] theorem dropOverflow_rxCount : (dropOverflow s).rxCount = 0 := rfl
@[simp] theorem dropOverflow_rxStart : (dropOverflow s).rxStart = s.rxStart := rfl
@[simp] theorem dropOverflow_rxDone : (dropOverflow s).rxDone = s.rxDone := rfl
@[simp] theorem dropOverflow_retained : (dropOverflow s).retained = false := rfl
@[simp] theorem dropOverflow_noiseLast : (dropOverflow s).noiseLast = s.noiseLast := rfl
@[simp] theorem dropOverflow_txBuf : (dropOverflow s).txBuf = s.txBuf := rfl
@[simp] theorem dropOverflow_txCount : (dropOverflow s).txCount = s.txCount := rfl
@[simp] theorem dropOverflow_status : (dropOverflow s).status = s.status ||| Event.overflow.mask := rfl
@[simp] theorem dropOverflow_irqEn : (dropOverflow s).irqEn = s.irqEn := rfl
@[simp] theorem dropOverflow_lastTxCsum : (dropOverflow s).lastTxCsum = s.lastTxCsum := rfl
@[simp] theorem dropOverflow_parseResult : (dropOverflow s).parseResult = s.parseResult := rfl
@[simp] theorem dropOverflow_acTargetTemp : (dropOverflow s).acTargetTemp = s.acTargetTemp := rfl
@[simp] theorem dropOverflow_acAmbient : (dropOverflow s).acAmbient = s.acAmbient := rfl
@[simp] theorem dropOverflow_acOutdoor : (dropOverflow s).acOutdoor = s.acOutdoor := rfl
@[simp] theorem dropOverflow_acRaw : (dropOverflow s).acRaw = s.acRaw := rfl
@[simp] theorem dropOverflow_smallValid : (dropOverflow s).smallValid = s.smallValid := rfl
@[simp] theorem dropOverflow_bigValid : (dropOverflow s).bigValid = s.bigValid := rfl
@[simp] theorem dropOverflow_lastSmall : (dropOverflow s).lastSmall = s.lastSmall := rfl
@[simp] theorem dropOverflow_cmdTargetTemp : (dropOverflow s).cmdTargetTemp = s.cmdTargetTemp := rfl
@[simp] theorem dropOverflow_cmdRaw : (dropOverflow s).cmdRaw = s.cmdRaw := rfl
@[simp] theorem dropOverflow_inputs : (dropOverflow s).inputs = s.inputs := rfl
@[simp] theorem dropOverflow_now : (dropOverflow s).now = s.now := rfl
@[simp] theorem dropOverflow_rxPending : (dropOverflow s).rxPending = s.rxPending := rfl
@[simp] theorem dropOverflow_result : (dropOverflow s).result = s.result := rfl
@[simp] theorem dropOverflow_tx : (dropOverflow s).tx = s.tx := rfl

/-! ### txReset -/

@[simp] theorem txReset_fstate : (txReset s).fstate = s.fstate := rfl
@[simp] theorem txReset_rxBuf : (txReset s).rxBuf = s.rxBuf := rfl
@[simp] theorem txReset_rxCount : (txReset s).rxCount = s.rxCount := rfl
@[simp] theorem txReset_rxStart : (txReset s).rxStart = s.rxStart := rfl
@[simp] theorem txReset_rxDone : (txReset s).rxDone = s.rxDone := rfl
@[simp] theorem txReset_retained : (txReset s).retained = s.retained := rfl
@[simp] theorem txReset_noiseLast : (txReset s).noiseLast = s.noiseLast := rfl
@[simp] theorem txReset_txBuf : (txReset s).txBuf = txEmptyBuf := rfl
@[simp] theorem txReset_txCount : (txReset s).txCount = 0 := rfl
@[simp] theorem txReset_status : (txReset s).status = s.status := rfl
@[simp] theorem txReset_irqEn : (txReset s).irqEn = s.irqEn := rfl
@[simp] theorem txReset_lastTxCsum : (txReset s).lastTxCsum = s.lastTxCsum := rfl
@[simp] theorem txReset_parseResult : (txReset s).parseResult = s.parseResult := rfl
@[simp] theorem txReset_acTargetTemp : (txReset s).acTargetTemp = s.acTargetTemp := rfl
@[simp] theorem txReset_acAmbient : (txReset s).acAmbient = s.acAmbient := rfl
@[simp] theorem txReset_acOutdoor : (txReset s).acOutdoor = s.acOutdoor := rfl
@[simp] theorem txReset_acRaw : (txReset s).acRaw = s.acRaw := rfl
@[simp] theorem txReset_smallValid : (txReset s).smallValid = s.smallValid := rfl
@[simp] theorem txReset_bigValid : (txReset s).bigValid = s.bigValid := rfl
@[simp] theorem txReset_lastSmall : (txReset s).lastSmall = s.lastSmall := rfl
@[simp] theorem txReset_cmdTargetTemp : (txReset s).cmdTargetTemp = s.cmdTargetTemp := rfl
@[simp] theorem txReset_cmdRaw : (txReset s).cmdRaw = s.cmdRaw := rfl
@[simp] theorem txReset_inputs : (txReset s).inputs = s.inputs := rfl
@[simp] theorem txReset_now : (txReset s).now = s.now := rfl
@[simp] theorem txReset_rxPending : (txReset s).rxPending = s.rxPending := rfl
@[simp] theorem txReset_result : (txReset s).result = s.result := rfl
@[simp] theorem txReset_tx : (txReset s).tx = s.tx := rfl

/-! ### loadTx -/

@[simp] theorem loadTx_fstate (bs : List Byte) : (loadTx bs s).fstate = s.fstate := rfl
@[simp] theorem loadTx_rxBuf (bs : List Byte) : (loadTx bs s).rxBuf = s.rxBuf := rfl
@[simp] theorem loadTx_rxCount (bs : List Byte) : (loadTx bs s).rxCount = s.rxCount := rfl
@[simp] theorem loadTx_rxStart (bs : List Byte) : (loadTx bs s).rxStart = s.rxStart := rfl
@[simp] theorem loadTx_rxDone (bs : List Byte) : (loadTx bs s).rxDone = s.rxDone := rfl
@[simp] theorem loadTx_retained (bs : List Byte) : (loadTx bs s).retained = s.retained := rfl
@[simp] theorem loadTx_noiseLast (bs : List Byte) : (loadTx bs s).noiseLast = s.noiseLast := rfl
@[simp] theorem loadTx_txBuf (bs : List Byte) : (loadTx bs s).txBuf = blit s.txBuf 0 bs := rfl
@[simp] theorem loadTx_txCount (bs : List Byte) : (loadTx bs s).txCount = bs.length := rfl
@[simp] theorem loadTx_status (bs : List Byte) : (loadTx bs s).status = s.status := rfl
@[simp] theorem loadTx_irqEn (bs : List Byte) : (loadTx bs s).irqEn = s.irqEn := rfl
@[simp] theorem loadTx_lastTxCsum (bs : List Byte) : (loadTx bs s).lastTxCsum = s.lastTxCsum := rfl
@[simp] theorem loadTx_parseResult (bs : List Byte) : (loadTx bs s).parseResult = s.parseResult := rfl
@[simp] theorem loadTx_acTargetTemp (bs : List Byte) : (loadTx bs s).acTargetTemp = s.acTargetTemp := rfl
@[simp] theorem loadTx_acAmbient (bs : List Byte) : (loadTx bs s).acAmbient = s.acAmbient := rfl
@[simp] theorem loadTx_acOutdoor (bs : List Byte) : (loadTx bs s).acOutdoor = s.acOutdoor := rfl
@[simp] theorem loadTx_acRaw (bs : List Byte) : (loadTx bs s).acRaw = s.acRaw := rfl
@[simp] theorem loadTx_smallValid (bs : List Byte) : (loadTx bs s).smallValid = s.smallValid := rfl
@[simp] theorem loadTx_bigValid (bs : List Byte) : (loadTx bs s).bigValid = s.bigValid := rfl
@[simp] theorem loadTx_lastSmall (bs : List Byte) : (loadTx bs s).lastSmall = s.lastSmall := rfl
@[simp] theorem loadTx_cmdTargetTemp (bs : List Byte) : (loadTx bs s).cmdTargetTemp = s.cmdTargetTemp := rfl
@[simp] theorem loadTx_cmdRaw (bs : List Byte) : (loadTx bs s).cmdRaw = s.cmdRaw := rfl
@[simp] theorem loadTx_inputs (bs : List Byte) : (loadTx bs s).inputs = s.inputs := rfl
@[simp] theorem loadTx_now (bs : List Byte) : (loadTx bs s).now = s.now := rfl
@[simp] theorem loadTx_rxPending (bs : List Byte) : (loadTx bs s).rxPending = s.rxPending := rfl
@[simp] theorem loadTx_result (bs : List Byte) : (loadTx bs s).result = s.result := rfl
@[simp] theorem loadTx_tx (bs : List Byte) : (loadTx bs s).tx = s.tx := rfl

/-! ### writeCmdTargetTemp -/

@[simp] theorem writeCmdTargetTemp_fstate (d : Half) : (writeCmdTargetTemp d s).fstate = s.fstate := rfl
@[simp] theorem writeCmdTargetTemp_rxBuf (d : Half) : (writeCmdTargetTemp d s).rxBuf = s.rxBuf := rfl
@[simp] theorem writeCmdTargetTemp_rxCount (d : Half) : (writeCmdTargetTemp d s).rxCount = s.rxCount := rfl
@[simp] theorem writeCmdTargetTemp_rxStart (d : Half) : (writeCmdTargetTemp d s).rxStart = s.rxStart := rfl
@[simp] theorem writeCmdTargetTemp_rxDone (d : Half) : (writeCmdTargetTemp d s).rxDone = s.rxDone := rfl
@[simp] theorem writeCmdTargetTemp_retained (d : Half) : (writeCmdTargetTemp d s).retained = s.retained := rfl
@[simp] theorem writeCmdTargetTemp_noiseLast (d : Half) : (writeCmdTargetTemp d s).noiseLast = s.noiseLast := rfl
@[simp] theorem writeCmdTargetTemp_txBuf (d : Half) : (writeCmdTargetTemp d s).txBuf = s.txBuf := rfl
@[simp] theorem writeCmdTargetTemp_txCount (d : Half) : (writeCmdTargetTemp d s).txCount = s.txCount := rfl
@[simp] theorem writeCmdTargetTemp_status (d : Half) : (writeCmdTargetTemp d s).status = s.status := rfl
@[simp] theorem writeCmdTargetTemp_irqEn (d : Half) : (writeCmdTargetTemp d s).irqEn = s.irqEn := rfl
@[simp] theorem writeCmdTargetTemp_lastTxCsum (d : Half) : (writeCmdTargetTemp d s).lastTxCsum = s.lastTxCsum := rfl
@[simp] theorem writeCmdTargetTemp_parseResult (d : Half) : (writeCmdTargetTemp d s).parseResult = s.parseResult := rfl
@[simp] theorem writeCmdTargetTemp_acTargetTemp (d : Half) : (writeCmdTargetTemp d s).acTargetTemp = s.acTargetTemp := rfl
@[simp] theorem writeCmdTargetTemp_acAmbient (d : Half) : (writeCmdTargetTemp d s).acAmbient = s.acAmbient := rfl
@[simp] theorem writeCmdTargetTemp_acOutdoor (d : Half) : (writeCmdTargetTemp d s).acOutdoor = s.acOutdoor := rfl
@[simp] theorem writeCmdTargetTemp_acRaw (d : Half) : (writeCmdTargetTemp d s).acRaw = s.acRaw := rfl
@[simp] theorem writeCmdTargetTemp_smallValid (d : Half) : (writeCmdTargetTemp d s).smallValid = s.smallValid := rfl
@[simp] theorem writeCmdTargetTemp_bigValid (d : Half) : (writeCmdTargetTemp d s).bigValid = s.bigValid := rfl
@[simp] theorem writeCmdTargetTemp_lastSmall (d : Half) : (writeCmdTargetTemp d s).lastSmall = s.lastSmall := rfl
@[simp] theorem writeCmdTargetTemp_cmdTargetTemp (d : Half) : (writeCmdTargetTemp d s).cmdTargetTemp = d := rfl
@[simp] theorem writeCmdTargetTemp_cmdRaw (d : Half) : (writeCmdTargetTemp d s).cmdRaw = s.cmdRaw := rfl
@[simp] theorem writeCmdTargetTemp_inputs (d : Half) : (writeCmdTargetTemp d s).inputs = s.inputs := rfl
@[simp] theorem writeCmdTargetTemp_now (d : Half) : (writeCmdTargetTemp d s).now = s.now := rfl
@[simp] theorem writeCmdTargetTemp_rxPending (d : Half) : (writeCmdTargetTemp d s).rxPending = s.rxPending := rfl
@[simp] theorem writeCmdTargetTemp_result (d : Half) : (writeCmdTargetTemp d s).result = s.result := rfl
@[simp] theorem writeCmdTargetTemp_tx (d : Half) : (writeCmdTargetTemp d s).tx = s.tx := rfl

/-! ### writeCmdRaw -/

@[simp] theorem writeCmdRaw_fstate (f : CmdField) (d : Half) : (writeCmdRaw f d s).fstate = s.fstate := rfl
@[simp] theorem writeCmdRaw_rxBuf (f : CmdField) (d : Half) : (writeCmdRaw f d s).rxBuf = s.rxBuf := rfl
@[simp] theorem writeCmdRaw_rxCount (f : CmdField) (d : Half) : (writeCmdRaw f d s).rxCount = s.rxCount := rfl
@[simp] theorem writeCmdRaw_rxStart (f : CmdField) (d : Half) : (writeCmdRaw f d s).rxStart = s.rxStart := rfl
@[simp] theorem writeCmdRaw_rxDone (f : CmdField) (d : Half) : (writeCmdRaw f d s).rxDone = s.rxDone := rfl
@[simp] theorem writeCmdRaw_retained (f : CmdField) (d : Half) : (writeCmdRaw f d s).retained = s.retained := rfl
@[simp] theorem writeCmdRaw_noiseLast (f : CmdField) (d : Half) : (writeCmdRaw f d s).noiseLast = s.noiseLast := rfl
@[simp] theorem writeCmdRaw_txBuf (f : CmdField) (d : Half) : (writeCmdRaw f d s).txBuf = s.txBuf := rfl
@[simp] theorem writeCmdRaw_txCount (f : CmdField) (d : Half) : (writeCmdRaw f d s).txCount = s.txCount := rfl
@[simp] theorem writeCmdRaw_status (f : CmdField) (d : Half) : (writeCmdRaw f d s).status = s.status := rfl
@[simp] theorem writeCmdRaw_irqEn (f : CmdField) (d : Half) : (writeCmdRaw f d s).irqEn = s.irqEn := rfl
@[simp] theorem writeCmdRaw_lastTxCsum (f : CmdField) (d : Half) : (writeCmdRaw f d s).lastTxCsum = s.lastTxCsum := rfl
@[simp] theorem writeCmdRaw_parseResult (f : CmdField) (d : Half) : (writeCmdRaw f d s).parseResult = s.parseResult := rfl
@[simp] theorem writeCmdRaw_acTargetTemp (f : CmdField) (d : Half) : (writeCmdRaw f d s).acTargetTemp = s.acTargetTemp := rfl
@[simp] theorem writeCmdRaw_acAmbient (f : CmdField) (d : Half) : (writeCmdRaw f d s).acAmbient = s.acAmbient := rfl
@[simp] theorem writeCmdRaw_acOutdoor (f : CmdField) (d : Half) : (writeCmdRaw f d s).acOutdoor = s.acOutdoor := rfl
@[simp] theorem writeCmdRaw_acRaw (f : CmdField) (d : Half) : (writeCmdRaw f d s).acRaw = s.acRaw := rfl
@[simp] theorem writeCmdRaw_smallValid (f : CmdField) (d : Half) : (writeCmdRaw f d s).smallValid = s.smallValid := rfl
@[simp] theorem writeCmdRaw_bigValid (f : CmdField) (d : Half) : (writeCmdRaw f d s).bigValid = s.bigValid := rfl
@[simp] theorem writeCmdRaw_lastSmall (f : CmdField) (d : Half) : (writeCmdRaw f d s).lastSmall = s.lastSmall := rfl
@[simp] theorem writeCmdRaw_cmdTargetTemp (f : CmdField) (d : Half) : (writeCmdRaw f d s).cmdTargetTemp = s.cmdTargetTemp := rfl
@[simp] theorem writeCmdRaw_cmdRaw (f : CmdField) (d : Half) : (writeCmdRaw f d s).cmdRaw = s.cmdRaw.set f ⟨d.getLsbD 15, d.extractLsb' 0 8 &&& fieldOnes (Config.layout f.raw)⟩ := rfl
@[simp] theorem writeCmdRaw_inputs (f : CmdField) (d : Half) : (writeCmdRaw f d s).inputs = s.inputs := rfl
@[simp] theorem writeCmdRaw_now (f : CmdField) (d : Half) : (writeCmdRaw f d s).now = s.now := rfl
@[simp] theorem writeCmdRaw_rxPending (f : CmdField) (d : Half) : (writeCmdRaw f d s).rxPending = s.rxPending := rfl
@[simp] theorem writeCmdRaw_result (f : CmdField) (d : Half) : (writeCmdRaw f d s).result = s.result := rfl
@[simp] theorem writeCmdRaw_tx (f : CmdField) (d : Half) : (writeCmdRaw f d s).tx = s.tx := rfl

/-! ### clearOverrides -/

@[simp] theorem clearOverrides_fstate : (clearOverrides s).fstate = s.fstate := rfl
@[simp] theorem clearOverrides_rxBuf : (clearOverrides s).rxBuf = s.rxBuf := rfl
@[simp] theorem clearOverrides_rxCount : (clearOverrides s).rxCount = s.rxCount := rfl
@[simp] theorem clearOverrides_rxStart : (clearOverrides s).rxStart = s.rxStart := rfl
@[simp] theorem clearOverrides_rxDone : (clearOverrides s).rxDone = s.rxDone := rfl
@[simp] theorem clearOverrides_retained : (clearOverrides s).retained = s.retained := rfl
@[simp] theorem clearOverrides_noiseLast : (clearOverrides s).noiseLast = s.noiseLast := rfl
@[simp] theorem clearOverrides_txBuf : (clearOverrides s).txBuf = s.txBuf := rfl
@[simp] theorem clearOverrides_txCount : (clearOverrides s).txCount = s.txCount := rfl
@[simp] theorem clearOverrides_status : (clearOverrides s).status = s.status := rfl
@[simp] theorem clearOverrides_irqEn : (clearOverrides s).irqEn = s.irqEn := rfl
@[simp] theorem clearOverrides_lastTxCsum : (clearOverrides s).lastTxCsum = s.lastTxCsum := rfl
@[simp] theorem clearOverrides_parseResult : (clearOverrides s).parseResult = s.parseResult := rfl
@[simp] theorem clearOverrides_acTargetTemp : (clearOverrides s).acTargetTemp = s.acTargetTemp := rfl
@[simp] theorem clearOverrides_acAmbient : (clearOverrides s).acAmbient = s.acAmbient := rfl
@[simp] theorem clearOverrides_acOutdoor : (clearOverrides s).acOutdoor = s.acOutdoor := rfl
@[simp] theorem clearOverrides_acRaw : (clearOverrides s).acRaw = s.acRaw := rfl
@[simp] theorem clearOverrides_smallValid : (clearOverrides s).smallValid = s.smallValid := rfl
@[simp] theorem clearOverrides_bigValid : (clearOverrides s).bigValid = s.bigValid := rfl
@[simp] theorem clearOverrides_lastSmall : (clearOverrides s).lastSmall = s.lastSmall := rfl
@[simp] theorem clearOverrides_cmdTargetTemp : (clearOverrides s).cmdTargetTemp = 0 := rfl
@[simp] theorem clearOverrides_cmdRaw : (clearOverrides s).cmdRaw = .untouched := rfl
@[simp] theorem clearOverrides_inputs : (clearOverrides s).inputs = s.inputs := rfl
@[simp] theorem clearOverrides_now : (clearOverrides s).now = s.now := rfl
@[simp] theorem clearOverrides_rxPending : (clearOverrides s).rxPending = s.rxPending := rfl
@[simp] theorem clearOverrides_result : (clearOverrides s).result = s.result := rfl
@[simp] theorem clearOverrides_tx : (clearOverrides s).tx = s.tx := rfl

/-! ### softReset -/

@[simp] theorem softReset_fstate : (softReset s).fstate = State.reset.fstate := rfl
@[simp] theorem softReset_rxBuf : (softReset s).rxBuf = State.reset.rxBuf := rfl
@[simp] theorem softReset_rxCount : (softReset s).rxCount = State.reset.rxCount := rfl
@[simp] theorem softReset_rxStart : (softReset s).rxStart = State.reset.rxStart := rfl
@[simp] theorem softReset_rxDone : (softReset s).rxDone = State.reset.rxDone := rfl
@[simp] theorem softReset_retained : (softReset s).retained = State.reset.retained := rfl
@[simp] theorem softReset_noiseLast : (softReset s).noiseLast = State.reset.noiseLast := rfl
@[simp] theorem softReset_txBuf : (softReset s).txBuf = State.reset.txBuf := rfl
@[simp] theorem softReset_txCount : (softReset s).txCount = State.reset.txCount := rfl
@[simp] theorem softReset_status : (softReset s).status = State.reset.status := rfl
@[simp] theorem softReset_irqEn : (softReset s).irqEn = State.reset.irqEn := rfl
@[simp] theorem softReset_lastTxCsum : (softReset s).lastTxCsum = State.reset.lastTxCsum := rfl
@[simp] theorem softReset_parseResult : (softReset s).parseResult = State.reset.parseResult := rfl
@[simp] theorem softReset_acTargetTemp : (softReset s).acTargetTemp = State.reset.acTargetTemp := rfl
@[simp] theorem softReset_acAmbient : (softReset s).acAmbient = State.reset.acAmbient := rfl
@[simp] theorem softReset_acOutdoor : (softReset s).acOutdoor = State.reset.acOutdoor := rfl
@[simp] theorem softReset_acRaw : (softReset s).acRaw = State.reset.acRaw := rfl
@[simp] theorem softReset_smallValid : (softReset s).smallValid = State.reset.smallValid := rfl
@[simp] theorem softReset_bigValid : (softReset s).bigValid = State.reset.bigValid := rfl
@[simp] theorem softReset_lastSmall : (softReset s).lastSmall = State.reset.lastSmall := rfl
@[simp] theorem softReset_cmdTargetTemp : (softReset s).cmdTargetTemp = State.reset.cmdTargetTemp := rfl
@[simp] theorem softReset_cmdRaw : (softReset s).cmdRaw = State.reset.cmdRaw := rfl
@[simp] theorem softReset_inputs : (softReset s).inputs = s.inputs := rfl
@[simp] theorem softReset_now : (softReset s).now = s.now := rfl
@[simp] theorem softReset_rxPending : (softReset s).rxPending = s.rxPending := rfl
@[simp] theorem softReset_result : (softReset s).result = State.reset.result := rfl
@[simp] theorem softReset_tx : (softReset s).tx = State.reset.tx := rfl

/-! ### writeSmall -/

@[simp] theorem writeSmall_fstate (b : List Byte) : (writeSmall b s).fstate = s.fstate := rfl
@[simp] theorem writeSmall_rxBuf (b : List Byte) : (writeSmall b s).rxBuf = s.rxBuf := rfl
@[simp] theorem writeSmall_rxCount (b : List Byte) : (writeSmall b s).rxCount = s.rxCount := rfl
@[simp] theorem writeSmall_rxStart (b : List Byte) : (writeSmall b s).rxStart = s.rxStart := rfl
@[simp] theorem writeSmall_rxDone (b : List Byte) : (writeSmall b s).rxDone = s.rxDone := rfl
@[simp] theorem writeSmall_retained (b : List Byte) : (writeSmall b s).retained = s.retained := rfl
@[simp] theorem writeSmall_noiseLast (b : List Byte) : (writeSmall b s).noiseLast = s.noiseLast := rfl
@[simp] theorem writeSmall_txBuf (b : List Byte) : (writeSmall b s).txBuf = s.txBuf := rfl
@[simp] theorem writeSmall_txCount (b : List Byte) : (writeSmall b s).txCount = s.txCount := rfl
@[simp] theorem writeSmall_status (b : List Byte) : (writeSmall b s).status = s.status := rfl
@[simp] theorem writeSmall_irqEn (b : List Byte) : (writeSmall b s).irqEn = s.irqEn := rfl
@[simp] theorem writeSmall_lastTxCsum (b : List Byte) : (writeSmall b s).lastTxCsum = s.lastTxCsum := rfl
@[simp] theorem writeSmall_parseResult (b : List Byte) : (writeSmall b s).parseResult = s.parseResult := rfl
@[simp] theorem writeSmall_acTargetTemp (b : List Byte) : (writeSmall b s).acTargetTemp = BitVec.ofNat 16 (targetTenths b) := rfl
@[simp] theorem writeSmall_acAmbient (b : List Byte) : (writeSmall b s).acAmbient = s.acAmbient := rfl
@[simp] theorem writeSmall_acOutdoor (b : List Byte) : (writeSmall b s).acOutdoor = s.acOutdoor := rfl
@[simp] theorem writeSmall_acRaw (b : List Byte) : (writeSmall b s).acRaw = rawFields b := rfl
@[simp] theorem writeSmall_smallValid (b : List Byte) : (writeSmall b s).smallValid = true := rfl
@[simp] theorem writeSmall_bigValid (b : List Byte) : (writeSmall b s).bigValid = s.bigValid := rfl
@[simp] theorem writeSmall_lastSmall (b : List Byte) : (writeSmall b s).lastSmall = Vector.ofFn fun k => b.getD (k.val + 2) 0x00 := rfl
@[simp] theorem writeSmall_cmdTargetTemp (b : List Byte) : (writeSmall b s).cmdTargetTemp = s.cmdTargetTemp := rfl
@[simp] theorem writeSmall_cmdRaw (b : List Byte) : (writeSmall b s).cmdRaw = s.cmdRaw := rfl
@[simp] theorem writeSmall_inputs (b : List Byte) : (writeSmall b s).inputs = s.inputs := rfl
@[simp] theorem writeSmall_now (b : List Byte) : (writeSmall b s).now = s.now := rfl
@[simp] theorem writeSmall_rxPending (b : List Byte) : (writeSmall b s).rxPending = s.rxPending := rfl
@[simp] theorem writeSmall_result (b : List Byte) : (writeSmall b s).result = s.result := rfl
@[simp] theorem writeSmall_tx (b : List Byte) : (writeSmall b s).tx = s.tx := rfl

/-! ### writeBig -/

@[simp] theorem writeBig_fstate (b : List Byte) : (writeBig b s).fstate = s.fstate := rfl
@[simp] theorem writeBig_rxBuf (b : List Byte) : (writeBig b s).rxBuf = s.rxBuf := rfl
@[simp] theorem writeBig_rxCount (b : List Byte) : (writeBig b s).rxCount = s.rxCount := rfl
@[simp] theorem writeBig_rxStart (b : List Byte) : (writeBig b s).rxStart = s.rxStart := rfl
@[simp] theorem writeBig_rxDone (b : List Byte) : (writeBig b s).rxDone = s.rxDone := rfl
@[simp] theorem writeBig_retained (b : List Byte) : (writeBig b s).retained = s.retained := rfl
@[simp] theorem writeBig_noiseLast (b : List Byte) : (writeBig b s).noiseLast = s.noiseLast := rfl
@[simp] theorem writeBig_txBuf (b : List Byte) : (writeBig b s).txBuf = s.txBuf := rfl
@[simp] theorem writeBig_txCount (b : List Byte) : (writeBig b s).txCount = s.txCount := rfl
@[simp] theorem writeBig_status (b : List Byte) : (writeBig b s).status = s.status := rfl
@[simp] theorem writeBig_irqEn (b : List Byte) : (writeBig b s).irqEn = s.irqEn := rfl
@[simp] theorem writeBig_lastTxCsum (b : List Byte) : (writeBig b s).lastTxCsum = s.lastTxCsum := rfl
@[simp] theorem writeBig_parseResult (b : List Byte) : (writeBig b s).parseResult = s.parseResult := rfl
@[simp] theorem writeBig_acTargetTemp (b : List Byte) : (writeBig b s).acTargetTemp = s.acTargetTemp := rfl
@[simp] theorem writeBig_acAmbient (b : List Byte) : (writeBig b s).acAmbient = BitVec.ofInt 16 (ambientTenths b) := rfl
@[simp] theorem writeBig_acOutdoor (b : List Byte) : (writeBig b s).acOutdoor = BitVec.ofInt 16 (outdoorTenths b) := rfl
@[simp] theorem writeBig_acRaw (b : List Byte) : (writeBig b s).acRaw = s.acRaw := rfl
@[simp] theorem writeBig_smallValid (b : List Byte) : (writeBig b s).smallValid = s.smallValid := rfl
@[simp] theorem writeBig_bigValid (b : List Byte) : (writeBig b s).bigValid = true := rfl
@[simp] theorem writeBig_lastSmall (b : List Byte) : (writeBig b s).lastSmall = s.lastSmall := rfl
@[simp] theorem writeBig_cmdTargetTemp (b : List Byte) : (writeBig b s).cmdTargetTemp = s.cmdTargetTemp := rfl
@[simp] theorem writeBig_cmdRaw (b : List Byte) : (writeBig b s).cmdRaw = s.cmdRaw := rfl
@[simp] theorem writeBig_inputs (b : List Byte) : (writeBig b s).inputs = s.inputs := rfl
@[simp] theorem writeBig_now (b : List Byte) : (writeBig b s).now = s.now := rfl
@[simp] theorem writeBig_rxPending (b : List Byte) : (writeBig b s).rxPending = s.rxPending := rfl
@[simp] theorem writeBig_result (b : List Byte) : (writeBig b s).result = s.result := rfl
@[simp] theorem writeBig_tx (b : List Byte) : (writeBig b s).tx = s.tx := rfl

/-! ### setParseResult -/

@[simp] theorem setParseResult_fstate (c : ParseCode) : (setParseResult c s).fstate = s.fstate := rfl
@[simp] theorem setParseResult_rxBuf (c : ParseCode) : (setParseResult c s).rxBuf = s.rxBuf := rfl
@[simp] theorem setParseResult_rxCount (c : ParseCode) : (setParseResult c s).rxCount = s.rxCount := rfl
@[simp] theorem setParseResult_rxStart (c : ParseCode) : (setParseResult c s).rxStart = s.rxStart := rfl
@[simp] theorem setParseResult_rxDone (c : ParseCode) : (setParseResult c s).rxDone = s.rxDone := rfl
@[simp] theorem setParseResult_retained (c : ParseCode) : (setParseResult c s).retained = s.retained := rfl
@[simp] theorem setParseResult_noiseLast (c : ParseCode) : (setParseResult c s).noiseLast = s.noiseLast := rfl
@[simp] theorem setParseResult_txBuf (c : ParseCode) : (setParseResult c s).txBuf = s.txBuf := rfl
@[simp] theorem setParseResult_txCount (c : ParseCode) : (setParseResult c s).txCount = s.txCount := rfl
@[simp] theorem setParseResult_status (c : ParseCode) : (setParseResult c s).status = s.status := rfl
@[simp] theorem setParseResult_irqEn (c : ParseCode) : (setParseResult c s).irqEn = s.irqEn := rfl
@[simp] theorem setParseResult_lastTxCsum (c : ParseCode) : (setParseResult c s).lastTxCsum = s.lastTxCsum := rfl
@[simp] theorem setParseResult_parseResult (c : ParseCode) : (setParseResult c s).parseResult = c := rfl
@[simp] theorem setParseResult_acTargetTemp (c : ParseCode) : (setParseResult c s).acTargetTemp = s.acTargetTemp := rfl
@[simp] theorem setParseResult_acAmbient (c : ParseCode) : (setParseResult c s).acAmbient = s.acAmbient := rfl
@[simp] theorem setParseResult_acOutdoor (c : ParseCode) : (setParseResult c s).acOutdoor = s.acOutdoor := rfl
@[simp] theorem setParseResult_acRaw (c : ParseCode) : (setParseResult c s).acRaw = s.acRaw := rfl
@[simp] theorem setParseResult_smallValid (c : ParseCode) : (setParseResult c s).smallValid = s.smallValid := rfl
@[simp] theorem setParseResult_bigValid (c : ParseCode) : (setParseResult c s).bigValid = s.bigValid := rfl
@[simp] theorem setParseResult_lastSmall (c : ParseCode) : (setParseResult c s).lastSmall = s.lastSmall := rfl
@[simp] theorem setParseResult_cmdTargetTemp (c : ParseCode) : (setParseResult c s).cmdTargetTemp = s.cmdTargetTemp := rfl
@[simp] theorem setParseResult_cmdRaw (c : ParseCode) : (setParseResult c s).cmdRaw = s.cmdRaw := rfl
@[simp] theorem setParseResult_inputs (c : ParseCode) : (setParseResult c s).inputs = s.inputs := rfl
@[simp] theorem setParseResult_now (c : ParseCode) : (setParseResult c s).now = s.now := rfl
@[simp] theorem setParseResult_rxPending (c : ParseCode) : (setParseResult c s).rxPending = s.rxPending := rfl
@[simp] theorem setParseResult_result (c : ParseCode) : (setParseResult c s).result = s.result := rfl
@[simp] theorem setParseResult_tx (c : ParseCode) : (setParseResult c s).tx = s.tx := rfl

/-! ### retainFrame -/

@[simp] theorem retainFrame_fstate : (retainFrame s).fstate = s.fstate := rfl
@[simp] theorem retainFrame_rxBuf : (retainFrame s).rxBuf = s.rxBuf := rfl
@[simp] theorem retainFrame_rxCount : (retainFrame s).rxCount = s.rxCount := rfl
@[simp] theorem retainFrame_rxStart : (retainFrame s).rxStart = s.rxStart := rfl
@[simp] theorem retainFrame_rxDone : (retainFrame s).rxDone = s.rxDone := rfl
@[simp] theorem retainFrame_retained : (retainFrame s).retained = true := rfl
@[simp] theorem retainFrame_noiseLast : (retainFrame s).noiseLast = s.noiseLast := rfl
@[simp] theorem retainFrame_txBuf : (retainFrame s).txBuf = s.txBuf := rfl
@[simp] theorem retainFrame_txCount : (retainFrame s).txCount = s.txCount := rfl
@[simp] theorem retainFrame_status : (retainFrame s).status = s.status := rfl
@[simp] theorem retainFrame_irqEn : (retainFrame s).irqEn = s.irqEn := rfl
@[simp] theorem retainFrame_lastTxCsum : (retainFrame s).lastTxCsum = s.lastTxCsum := rfl
@[simp] theorem retainFrame_parseResult : (retainFrame s).parseResult = s.parseResult := rfl
@[simp] theorem retainFrame_acTargetTemp : (retainFrame s).acTargetTemp = s.acTargetTemp := rfl
@[simp] theorem retainFrame_acAmbient : (retainFrame s).acAmbient = s.acAmbient := rfl
@[simp] theorem retainFrame_acOutdoor : (retainFrame s).acOutdoor = s.acOutdoor := rfl
@[simp] theorem retainFrame_acRaw : (retainFrame s).acRaw = s.acRaw := rfl
@[simp] theorem retainFrame_smallValid : (retainFrame s).smallValid = s.smallValid := rfl
@[simp] theorem retainFrame_bigValid : (retainFrame s).bigValid = s.bigValid := rfl
@[simp] theorem retainFrame_lastSmall : (retainFrame s).lastSmall = s.lastSmall := rfl
@[simp] theorem retainFrame_cmdTargetTemp : (retainFrame s).cmdTargetTemp = s.cmdTargetTemp := rfl
@[simp] theorem retainFrame_cmdRaw : (retainFrame s).cmdRaw = s.cmdRaw := rfl
@[simp] theorem retainFrame_inputs : (retainFrame s).inputs = s.inputs := rfl
@[simp] theorem retainFrame_now : (retainFrame s).now = s.now := rfl
@[simp] theorem retainFrame_rxPending : (retainFrame s).rxPending = s.rxPending := rfl
@[simp] theorem retainFrame_result : (retainFrame s).result = s.result := rfl
@[simp] theorem retainFrame_tx : (retainFrame s).tx = s.tx := rfl

/-! ### latchTxCsum -/

@[simp] theorem latchTxCsum_fstate : (latchTxCsum s).fstate = s.fstate := rfl
@[simp] theorem latchTxCsum_rxBuf : (latchTxCsum s).rxBuf = s.rxBuf := rfl
@[simp] theorem latchTxCsum_rxCount : (latchTxCsum s).rxCount = s.rxCount := rfl
@[simp] theorem latchTxCsum_rxStart : (latchTxCsum s).rxStart = s.rxStart := rfl
@[simp] theorem latchTxCsum_rxDone : (latchTxCsum s).rxDone = s.rxDone := rfl
@[simp] theorem latchTxCsum_retained : (latchTxCsum s).retained = s.retained := rfl
@[simp] theorem latchTxCsum_noiseLast : (latchTxCsum s).noiseLast = s.noiseLast := rfl
@[simp] theorem latchTxCsum_txBuf : (latchTxCsum s).txBuf = s.txBuf := rfl
@[simp] theorem latchTxCsum_txCount : (latchTxCsum s).txCount = s.txCount := rfl
@[simp] theorem latchTxCsum_status : (latchTxCsum s).status = s.status := rfl
@[simp] theorem latchTxCsum_irqEn : (latchTxCsum s).irqEn = s.irqEn := rfl
@[simp] theorem latchTxCsum_lastTxCsum : (latchTxCsum s).lastTxCsum = (queuedBytes s).getD (s.txCount - 1) 0x00 ++ (queuedBytes s).getD (s.txCount - 2) 0x00 := rfl
@[simp] theorem latchTxCsum_parseResult : (latchTxCsum s).parseResult = s.parseResult := rfl
@[simp] theorem latchTxCsum_acTargetTemp : (latchTxCsum s).acTargetTemp = s.acTargetTemp := rfl
@[simp] theorem latchTxCsum_acAmbient : (latchTxCsum s).acAmbient = s.acAmbient := rfl
@[simp] theorem latchTxCsum_acOutdoor : (latchTxCsum s).acOutdoor = s.acOutdoor := rfl
@[simp] theorem latchTxCsum_acRaw : (latchTxCsum s).acRaw = s.acRaw := rfl
@[simp] theorem latchTxCsum_smallValid : (latchTxCsum s).smallValid = s.smallValid := rfl
@[simp] theorem latchTxCsum_bigValid : (latchTxCsum s).bigValid = s.bigValid := rfl
@[simp] theorem latchTxCsum_lastSmall : (latchTxCsum s).lastSmall = s.lastSmall := rfl
@[simp] theorem latchTxCsum_cmdTargetTemp : (latchTxCsum s).cmdTargetTemp = s.cmdTargetTemp := rfl
@[simp] theorem latchTxCsum_cmdRaw : (latchTxCsum s).cmdRaw = s.cmdRaw := rfl
@[simp] theorem latchTxCsum_inputs : (latchTxCsum s).inputs = s.inputs := rfl
@[simp] theorem latchTxCsum_now : (latchTxCsum s).now = s.now := rfl
@[simp] theorem latchTxCsum_rxPending : (latchTxCsum s).rxPending = s.rxPending := rfl
@[simp] theorem latchTxCsum_result : (latchTxCsum s).result = s.result := rfl
@[simp] theorem latchTxCsum_tx : (latchTxCsum s).tx = s.tx := rfl

/-! ### takeInput -/

@[simp] theorem takeInput_fstate (x : Input) (rest : List Input) : (takeInput x rest s).fstate = s.fstate := rfl
@[simp] theorem takeInput_rxBuf (x : Input) (rest : List Input) : (takeInput x rest s).rxBuf = s.rxBuf := rfl
@[simp] theorem takeInput_rxCount (x : Input) (rest : List Input) : (takeInput x rest s).rxCount = s.rxCount := rfl
@[simp] theorem takeInput_rxStart (x : Input) (rest : List Input) : (takeInput x rest s).rxStart = s.rxStart := rfl
@[simp] theorem takeInput_rxDone (x : Input) (rest : List Input) : (takeInput x rest s).rxDone = s.rxDone := rfl
@[simp] theorem takeInput_retained (x : Input) (rest : List Input) : (takeInput x rest s).retained = s.retained := rfl
@[simp] theorem takeInput_noiseLast (x : Input) (rest : List Input) : (takeInput x rest s).noiseLast = s.noiseLast := rfl
@[simp] theorem takeInput_txBuf (x : Input) (rest : List Input) : (takeInput x rest s).txBuf = s.txBuf := rfl
@[simp] theorem takeInput_txCount (x : Input) (rest : List Input) : (takeInput x rest s).txCount = s.txCount := rfl
@[simp] theorem takeInput_status (x : Input) (rest : List Input) : (takeInput x rest s).status = s.status := rfl
@[simp] theorem takeInput_irqEn (x : Input) (rest : List Input) : (takeInput x rest s).irqEn = s.irqEn := rfl
@[simp] theorem takeInput_lastTxCsum (x : Input) (rest : List Input) : (takeInput x rest s).lastTxCsum = s.lastTxCsum := rfl
@[simp] theorem takeInput_parseResult (x : Input) (rest : List Input) : (takeInput x rest s).parseResult = s.parseResult := rfl
@[simp] theorem takeInput_acTargetTemp (x : Input) (rest : List Input) : (takeInput x rest s).acTargetTemp = s.acTargetTemp := rfl
@[simp] theorem takeInput_acAmbient (x : Input) (rest : List Input) : (takeInput x rest s).acAmbient = s.acAmbient := rfl
@[simp] theorem takeInput_acOutdoor (x : Input) (rest : List Input) : (takeInput x rest s).acOutdoor = s.acOutdoor := rfl
@[simp] theorem takeInput_acRaw (x : Input) (rest : List Input) : (takeInput x rest s).acRaw = s.acRaw := rfl
@[simp] theorem takeInput_smallValid (x : Input) (rest : List Input) : (takeInput x rest s).smallValid = s.smallValid := rfl
@[simp] theorem takeInput_bigValid (x : Input) (rest : List Input) : (takeInput x rest s).bigValid = s.bigValid := rfl
@[simp] theorem takeInput_lastSmall (x : Input) (rest : List Input) : (takeInput x rest s).lastSmall = s.lastSmall := rfl
@[simp] theorem takeInput_cmdTargetTemp (x : Input) (rest : List Input) : (takeInput x rest s).cmdTargetTemp = s.cmdTargetTemp := rfl
@[simp] theorem takeInput_cmdRaw (x : Input) (rest : List Input) : (takeInput x rest s).cmdRaw = s.cmdRaw := rfl
@[simp] theorem takeInput_inputs (x : Input) (rest : List Input) : (takeInput x rest s).inputs = rest := rfl
@[simp] theorem takeInput_now (x : Input) (rest : List Input) : (takeInput x rest s).now = x.now := rfl
@[simp] theorem takeInput_rxPending (x : Input) (rest : List Input) : (takeInput x rest s).rxPending = x.rxPending := rfl
@[simp] theorem takeInput_result (x : Input) (rest : List Input) : (takeInput x rest s).result = s.result := rfl
@[simp] theorem takeInput_tx (x : Input) (rest : List Input) : (takeInput x rest s).tx = s.tx := rfl

/-! ### presentWord -/

@[simp] theorem presentWord_fstate (w : Word) : (presentWord w s).fstate = s.fstate := rfl
@[simp] theorem presentWord_rxBuf (w : Word) : (presentWord w s).rxBuf = s.rxBuf := rfl
@[simp] theorem presentWord_rxCount (w : Word) : (presentWord w s).rxCount = s.rxCount := rfl
@[simp] theorem presentWord_rxStart (w : Word) : (presentWord w s).rxStart = s.rxStart := rfl
@[simp] theorem presentWord_rxDone (w : Word) : (presentWord w s).rxDone = s.rxDone := rfl
@[simp] theorem presentWord_retained (w : Word) : (presentWord w s).retained = s.retained := rfl
@[simp] theorem presentWord_noiseLast (w : Word) : (presentWord w s).noiseLast = s.noiseLast := rfl
@[simp] theorem presentWord_txBuf (w : Word) : (presentWord w s).txBuf = s.txBuf := rfl
@[simp] theorem presentWord_txCount (w : Word) : (presentWord w s).txCount = s.txCount := rfl
@[simp] theorem presentWord_status (w : Word) : (presentWord w s).status = s.status := rfl
@[simp] theorem presentWord_irqEn (w : Word) : (presentWord w s).irqEn = s.irqEn := rfl
@[simp] theorem presentWord_lastTxCsum (w : Word) : (presentWord w s).lastTxCsum = s.lastTxCsum := rfl
@[simp] theorem presentWord_parseResult (w : Word) : (presentWord w s).parseResult = s.parseResult := rfl
@[simp] theorem presentWord_acTargetTemp (w : Word) : (presentWord w s).acTargetTemp = s.acTargetTemp := rfl
@[simp] theorem presentWord_acAmbient (w : Word) : (presentWord w s).acAmbient = s.acAmbient := rfl
@[simp] theorem presentWord_acOutdoor (w : Word) : (presentWord w s).acOutdoor = s.acOutdoor := rfl
@[simp] theorem presentWord_acRaw (w : Word) : (presentWord w s).acRaw = s.acRaw := rfl
@[simp] theorem presentWord_smallValid (w : Word) : (presentWord w s).smallValid = s.smallValid := rfl
@[simp] theorem presentWord_bigValid (w : Word) : (presentWord w s).bigValid = s.bigValid := rfl
@[simp] theorem presentWord_lastSmall (w : Word) : (presentWord w s).lastSmall = s.lastSmall := rfl
@[simp] theorem presentWord_cmdTargetTemp (w : Word) : (presentWord w s).cmdTargetTemp = s.cmdTargetTemp := rfl
@[simp] theorem presentWord_cmdRaw (w : Word) : (presentWord w s).cmdRaw = s.cmdRaw := rfl
@[simp] theorem presentWord_inputs (w : Word) : (presentWord w s).inputs = ⟨w, s.now, s.rxPending⟩ :: s.inputs := rfl
@[simp] theorem presentWord_now (w : Word) : (presentWord w s).now = s.now := rfl
@[simp] theorem presentWord_rxPending (w : Word) : (presentWord w s).rxPending = s.rxPending := rfl
@[simp] theorem presentWord_result (w : Word) : (presentWord w s).result = s.result := rfl
@[simp] theorem presentWord_tx (w : Word) : (presentWord w s).tx = s.tx := rfl

/-! ### holdFrame -/

@[simp] theorem holdFrame_fstate (bs : List Byte) : (holdFrame bs s).fstate = .parsing := rfl
@[simp] theorem holdFrame_rxBuf (bs : List Byte) : (holdFrame bs s).rxBuf = blit zeroBuf 0 bs := rfl
@[simp] theorem holdFrame_rxCount (bs : List Byte) : (holdFrame bs s).rxCount = bs.length := rfl
@[simp] theorem holdFrame_rxStart (bs : List Byte) : (holdFrame bs s).rxStart = s.rxStart := rfl
@[simp] theorem holdFrame_rxDone (bs : List Byte) : (holdFrame bs s).rxDone = s.rxDone := rfl
@[simp] theorem holdFrame_retained (bs : List Byte) : (holdFrame bs s).retained = false := rfl
@[simp] theorem holdFrame_noiseLast (bs : List Byte) : (holdFrame bs s).noiseLast = s.noiseLast := rfl
@[simp] theorem holdFrame_txBuf (bs : List Byte) : (holdFrame bs s).txBuf = s.txBuf := rfl
@[simp] theorem holdFrame_txCount (bs : List Byte) : (holdFrame bs s).txCount = s.txCount := rfl
@[simp] theorem holdFrame_status (bs : List Byte) : (holdFrame bs s).status = s.status := rfl
@[simp] theorem holdFrame_irqEn (bs : List Byte) : (holdFrame bs s).irqEn = s.irqEn := rfl
@[simp] theorem holdFrame_lastTxCsum (bs : List Byte) : (holdFrame bs s).lastTxCsum = s.lastTxCsum := rfl
@[simp] theorem holdFrame_parseResult (bs : List Byte) : (holdFrame bs s).parseResult = s.parseResult := rfl
@[simp] theorem holdFrame_acTargetTemp (bs : List Byte) : (holdFrame bs s).acTargetTemp = s.acTargetTemp := rfl
@[simp] theorem holdFrame_acAmbient (bs : List Byte) : (holdFrame bs s).acAmbient = s.acAmbient := rfl
@[simp] theorem holdFrame_acOutdoor (bs : List Byte) : (holdFrame bs s).acOutdoor = s.acOutdoor := rfl
@[simp] theorem holdFrame_acRaw (bs : List Byte) : (holdFrame bs s).acRaw = s.acRaw := rfl
@[simp] theorem holdFrame_smallValid (bs : List Byte) : (holdFrame bs s).smallValid = s.smallValid := rfl
@[simp] theorem holdFrame_bigValid (bs : List Byte) : (holdFrame bs s).bigValid = s.bigValid := rfl
@[simp] theorem holdFrame_lastSmall (bs : List Byte) : (holdFrame bs s).lastSmall = s.lastSmall := rfl
@[simp] theorem holdFrame_cmdTargetTemp (bs : List Byte) : (holdFrame bs s).cmdTargetTemp = s.cmdTargetTemp := rfl
@[simp] theorem holdFrame_cmdRaw (bs : List Byte) : (holdFrame bs s).cmdRaw = s.cmdRaw := rfl
@[simp] theorem holdFrame_inputs (bs : List Byte) : (holdFrame bs s).inputs = s.inputs := rfl
@[simp] theorem holdFrame_now (bs : List Byte) : (holdFrame bs s).now = s.now := rfl
@[simp] theorem holdFrame_rxPending (bs : List Byte) : (holdFrame bs s).rxPending = s.rxPending := rfl
@[simp] theorem holdFrame_result (bs : List Byte) : (holdFrame bs s).result = s.result := rfl
@[simp] theorem holdFrame_tx (bs : List Byte) : (holdFrame bs s).tx = s.tx := rfl

/-! ### setEventIf -/

@[simp] theorem setEventIf_fstate (c : Bool) (e : Event) : (setEventIf c e s).fstate = s.fstate := by cases c <;> rfl
@[simp] theorem setEventIf_rxBuf (c : Bool) (e : Event) : (setEventIf c e s).rxBuf = s.rxBuf := by cases c <;> rfl
@[simp] theorem setEventIf_rxCount (c : Bool) (e : Event) : (setEventIf c e s).rxCount = s.rxCount := by cases c <;> rfl
@[simp] theorem setEventIf_rxStart (c : Bool) (e : Event) : (setEventIf c e s).rxStart = s.rxStart := by cases c <;> rfl
@[simp] theorem setEventIf_rxDone (c : Bool) (e : Event) : (setEventIf c e s).rxDone = s.rxDone := by cases c <;> rfl
@[simp] theorem setEventIf_retained (c : Bool) (e : Event) : (setEventIf c e s).retained = s.retained := by cases c <;> rfl
@[simp] theorem setEventIf_noiseLast (c : Bool) (e : Event) : (setEventIf c e s).noiseLast = s.noiseLast := by cases c <;> rfl
@[simp] theorem setEventIf_txBuf (c : Bool) (e : Event) : (setEventIf c e s).txBuf = s.txBuf := by cases c <;> rfl
@[simp] theorem setEventIf_txCount (c : Bool) (e : Event) : (setEventIf c e s).txCount = s.txCount := by cases c <;> rfl
@[simp] theorem setEventIf_status (c : Bool) (e : Event) :
    (setEventIf c e s).status = if c then s.status ||| e.mask else s.status := by
  cases c <;> rfl
@[simp] theorem setEventIf_irqEn (c : Bool) (e : Event) : (setEventIf c e s).irqEn = s.irqEn := by cases c <;> rfl
@[simp] theorem setEventIf_lastTxCsum (c : Bool) (e : Event) : (setEventIf c e s).lastTxCsum = s.lastTxCsum := by cases c <;> rfl
@[simp] theorem setEventIf_parseResult (c : Bool) (e : Event) : (setEventIf c e s).parseResult = s.parseResult := by cases c <;> rfl
@[simp] theorem setEventIf_acTargetTemp (c : Bool) (e : Event) : (setEventIf c e s).acTargetTemp = s.acTargetTemp := by cases c <;> rfl
@[simp] theorem setEventIf_acAmbient (c : Bool) (e : Event) : (setEventIf c e s).acAmbient = s.acAmbient := by cases c <;> rfl
@[simp] theorem setEventIf_acOutdoor (c : Bool) (e : Event) : (setEventIf c e s).acOutdoor = s.acOutdoor := by cases c <;> rfl
@[simp] theorem setEventIf_acRaw (c : Bool) (e : Event) : (setEventIf c e s).acRaw = s.acRaw := by cases c <;> rfl
@[simp] theorem setEventIf_smallValid (c : Bool) (e : Event) : (setEventIf c e s).smallValid = s.smallValid := by cases c <;> rfl
@[simp] theorem setEventIf_bigValid (c : Bool) (e : Event) : (setEventIf c e s).bigValid = s.bigValid := by cases c <;> rfl
@[simp] theorem setEventIf_lastSmall (c : Bool) (e : Event) : (setEventIf c e s).lastSmall = s.lastSmall := by cases c <;> rfl
@[simp] theorem setEventIf_cmdTargetTemp (c : Bool) (e : Event) : (setEventIf c e s).cmdTargetTemp = s.cmdTargetTemp := by cases c <;> rfl
@[simp] theorem setEventIf_cmdRaw (c : Bool) (e : Event) : (setEventIf c e s).cmdRaw = s.cmdRaw := by cases c <;> rfl
@[simp] theorem setEventIf_inputs (c : Bool) (e : Event) : (setEventIf c e s).inputs = s.inputs := by cases c <;> rfl
@[simp] theorem setEventIf_now (c : Bool) (e : Event) : (setEventIf c e s).now = s.now := by cases c <;> rfl
@[simp] theorem setEventIf_rxPending (c : Bool) (e : Event) : (setEventIf c e s).rxPending = s.rxPending := by cases c <;> rfl
@[simp] theorem setEventIf_result (c : Bool) (e : Event) : (setEventIf c e s).result = s.result := by cases c <;> rfl
@[simp] theorem setEventIf_tx (c : Bool) (e : Event) : (setEventIf c e s).tx = s.tx := by cases c <;> rfl

end Sys2Proof.Machine
end

