-- ==== Sys2Proof/Laws/Ops.lean ====
section
/-! SUPPORT. What each shared operation can do, said once: the lemmas to cite instead of unfolding it. -/

namespace Sys2Proof.Machine

/-! ## The framer -/

/-- The timeout check either finds a timed-out frame in RECV and drops it, or changes nothing. -/
theorem checkTimeout_cases (s : State) :
    (s.fstate = .recv ∧ timedOut s = true ∧ checkTimeout s = dropTimedOut s)
      ∨ (¬ (s.fstate = .recv ∧ timedOut s = true) ∧ checkTimeout s = s) := by
  by_cases h : s.fstate = .recv ∧ timedOut s = true
  · exact .inl ⟨h.1, h.2, if_pos h⟩
  · exact .inr ⟨h, if_neg h⟩

/-- In HUNT the timeout check changes nothing. -/
theorem checkTimeout_of_ne_recv {s : State} (h : s.fstate ≠ .recv) : checkTimeout s = s :=
  if_neg fun hc => h hc.1

/-- An accepted byte is hunted in HUNT and stored in RECV, after the timeout check. -/
theorem acceptByte_cases (b : Byte) (s : State) (h : s.fstate ≠ .parsing) :
    (s.fstate = .hunt ∧ acceptByte b s = huntByte b s)
      ∨ (s.fstate = .recv ∧ timedOut s = true ∧ acceptByte b s = huntByte b (dropTimedOut s))
      ∨ (s.fstate = .recv ∧ timedOut s = false ∧ acceptByte b s = recvByte b s) := by
  unfold acceptByte
  rcases checkTimeout_cases s with ⟨hr, ht, e⟩ | ⟨hn, e⟩ <;> rw [e]
  · exact .inr (.inl ⟨hr, ht, by simp⟩)
  · cases hf : s.fstate with
    | hunt => exact .inl ⟨rfl, by simp [hf]⟩
    | recv =>
      have ht : timedOut s = false := by simpa [hf] using hn
      exact .inr (.inr ⟨rfl, ht, by simp [hf]⟩)
    | parsing => exact absurd hf h

/-- RXB refuses its byte in PARSING and accepts it otherwise. -/
theorem execRxb_next {b : Byte} {s t : State} (h : execRxb b s = .next t) :
    (s.fstate = .parsing ∧ t = finish 0x0000 s)
      ∨ (s.fstate ≠ .parsing ∧ t = finish 0x0001 (acceptByte b s)) := by
  unfold execRxb at h
  split_ifs at h with hp <;> cases h
  · exact .inl ⟨hp, rfl⟩
  · exact .inr ⟨hp, rfl⟩

/-- A hunted byte: a retained frame goes first, then the byte starts a frame, overflows the noise or is noise. -/
theorem huntByte_cases (b : Byte) (s : State) :
    ∃ u, u = (if s.retained then resetRx s else s)
      ∧ ((b = Config.sof ∧ huntByte b s = startFrame u)
        ∨ (b ≠ Config.sof ∧ u.rxCount + 1 = 34
            ∧ huntByte b s = resetRx (setEvent .noiseOvf (setNoiseLast 34 (appendRx b u))))
        ∨ (b ≠ Config.sof ∧ u.rxCount + 1 ≠ 34 ∧ huntByte b s = appendRx b u)) := by
  refine ⟨_, rfl, ?_⟩
  by_cases hb : b = Config.sof
  · exact .inl ⟨hb, by simp only [huntByte, if_pos hb]⟩
  · by_cases hc : (if s.retained then resetRx s else s).rxCount + 1 = 34
    · exact .inr (.inl ⟨hb, hc, by simp only [huntByte, if_neg hb, noiseByte, appendRx_rxCount]; exact if_pos hc⟩)
    · exact .inr (.inr ⟨hb, hc, by simp only [huntByte, if_neg hb, noiseByte, appendRx_rxCount]; exact if_neg hc⟩)

/-- A frame byte: it completes the frame, or fills the buffer, or is stored. -/
theorem recvByte_cases (b : Byte) (s : State) :
    (frameComplete (appendRx b s) = true ∧ recvByte b s = stampDone (setFState .parsing (appendRx b s)))
      ∨ (frameComplete (appendRx b s) = false ∧ s.rxCount + 1 = 34
          ∧ recvByte b s = dropOverflow (appendRx b s))
      ∨ (frameComplete (appendRx b s) = false ∧ s.rxCount + 1 ≠ 34 ∧ recvByte b s = appendRx b s) := by
  cases hc : frameComplete (appendRx b s) with
  | true => exact .inl ⟨rfl, by simp only [recvByte, hc, if_true]⟩
  | false =>
    by_cases h34 : s.rxCount + 1 = 34
    · exact .inr (.inl ⟨rfl, h34, by simp [recvByte, hc, h34]⟩)
    · exact .inr (.inr ⟨rfl, h34, by simp [recvByte, hc, h34]⟩)

/-- The completion test, as the count it compares. -/
theorem frameComplete_iff (s : State) :
    frameComplete s = true ↔ 8 ≤ s.rxCount ∧ s.rxCount = 8 + (s.rxBuf[6]).toNat + 2 :=
  decide_eq_true_iff

/-! ## PARSE -/

/-- PARSE: not ready, or a wrong checksum, or the class of the frame in RXBUF. -/
theorem execParse_cases (s : State) :
    (s.fstate ≠ .parsing ∧ execParse s = .next (raiseOpErr .parseNotReady s))
      ∨ (s.fstate = .parsing ∧ csumMatches s.rxBuf.toList = false ∧ execParse s = .next (dropBadChecksum s))
      ∨ (s.fstate = .parsing ∧ csumMatches s.rxBuf.toList = true
          ∧ execParse s = dispatchFrame (rxFrame s) s) := by
  unfold execParse
  cases s.fstate with
  | hunt => exact .inl ⟨by decide, rfl⟩
  | recv => exact .inl ⟨by decide, rfl⟩
  | parsing =>
    cases csumMatches s.rxBuf.toList with
    | false => exact .inr (.inl ⟨rfl, rfl, rfl⟩)
    | true => exact .inr (.inr ⟨rfl, rfl, rfl⟩)

/-- Running a frame's class is running the instruction it decodes to. -/
theorem dispatchFrame_eq_exec (f : Frame) (s : State) : dispatchFrame f s = exec (f.classOf.instr f) s := by
  unfold dispatchFrame
  cases f.classOf <;> rfl

/-- What a class can do: each is `parsed` with a code and an effect that is nothing, the answer to a ping, or one of
the two decodes. -/
theorem dispatchFrame_next (f : Frame) (s : State) :
    dispatchFrame f s = .next (parsed .ping answerPing s)
      ∨ (15 ≤ f.body.length ∧ dispatchFrame f s = .next (parsed .small (decodeSmall f.body) s))
      ∨ (24 ≤ f.body.length ∧ dispatchFrame f s = .next (parsed .big (decodeBig f.body) s))
      ∨ ∃ c : ParseCode, c.isIgnored = true ∧ dispatchFrame f s = .next (parsed c id s) := by
  unfold dispatchFrame
  cases f.classOf with
  | ping => exact .inl rfl
  | command => exact .inr (.inr (.inr ⟨.cmdDiscard, rfl, rfl⟩))
  | infoSetpEcho => exact .inr (.inr (.inr ⟨.setpEcho, rfl, rfl⟩))
  | infoSmall =>
    by_cases h : f.body.length < 15
    · exact .inr (.inr (.inr ⟨.short, rfl, if_pos h⟩))
    · exact .inr (.inl ⟨by omega, if_neg h⟩)
  | infoBig =>
    by_cases h : f.body.length < 24
    · exact .inr (.inr (.inr ⟨.short, rfl, if_pos h⟩))
    · exact .inr (.inr (.inl ⟨by omega, if_neg h⟩))
  | infoPeriodic =>
    by_cases h : f.body.length < 24
    · exact .inr (.inr (.inr ⟨.short, rfl, if_pos h⟩))
    · exact .inr (.inr (.inl ⟨by omega, if_neg h⟩))
  | infoOther => exact .inr (.inr (.inr ⟨.infoUnknown, rfl, rfl⟩))
  | infoShort => exact .inr (.inr (.inr ⟨.short, rfl, rfl⟩))
  | init => exact .inr (.inr (.inr ⟨.typeIgnored, rfl, rfl⟩))
  | unknownVendor => exact .inr (.inr (.inr ⟨.typeIgnored, rfl, rfl⟩))
  | otherType => exact .inr (.inr (.inr ⟨.typeIgnored, rfl, rfl⟩))

/-- The answer to a ping: a pong built, or dropped. -/
theorem answerPing_cases (s : State) :
    (s.txCount = 0 ∧ answerPing s = loadTx (builtFrame 0x01 0x01 pongBody).bytes (setEvent .pingRx s))
      ∨ (s.txCount ≠ 0 ∧ answerPing s = setEvent .pongDrop (setEvent .pingRx s)) := by
  by_cases h : s.txCount = 0
  · exact .inl ⟨h, if_pos h⟩
  · exact .inr ⟨h, if_neg h⟩

/-! ## Encode and transmit -/

/-- An ENC operation is refused while a frame is queued, else builds. -/
theorem encodeIdle_cases (build : State → State) (s : State) :
    (s.txCount ≠ 0 ∧ encodeIdle build s = raiseOpErr .txBusy s)
      ∨ (s.txCount = 0 ∧ encodeIdle build s = finish 0x0001 (build s)) := by
  by_cases h : s.txCount = 0
  · exact .inr ⟨h, by simp [encodeIdle, h]⟩
  · exact .inl ⟨h, by simp [encodeIdle, h]⟩

/-- ENC.SETC: refused for want of a free buffer, or of a small status, else the set-params frame. -/
theorem execEncSetc_cases (s : State) :
    (s.txCount ≠ 0 ∧ execEncSetc s = .next (raiseOpErr .txBusy s))
      ∨ (s.txCount = 0 ∧ s.smallValid = false ∧ execEncSetc s = .next (raiseOpErr .noBase s))
      ∨ (s.txCount = 0 ∧ s.smallValid = true
          ∧ execEncSetc s = .next (finish 0x0001 (loadTx (builtFrame 0x06 0x00 (setcBody s)).bytes s))) := by
  by_cases h : s.txCount = 0
  · cases hv : s.smallValid with
    | false => exact .inr (.inl ⟨h, rfl, by simp [execEncSetc, h, hv]⟩)
    | true => exact .inr (.inr ⟨h, rfl, by simp [execEncSetc, h, hv, encodeIdle, buildFrame]⟩)
  · exact .inl ⟨h, by simp [execEncSetc, h, encodeIdle]⟩

/-- TXSEND: nothing to do, or deferred, or the queued frame is sent. -/
theorem execTxsend_cases (s : State) :
    ((s.txCount = 0 ∨ s.fstate ≠ .hunt ∨ s.rxPending = true) ∧ execTxsend s = .next (finish 0x0000 s))
      ∨ (s.txCount ≠ 0 ∧ s.fstate = .hunt ∧ s.rxPending = false ∧ execTxsend s = .next (sendQueued s)) := by
  by_cases h : s.txCount = 0
  · exact .inl ⟨.inl h, by simp [execTxsend, h]⟩
  · by_cases h2 : s.fstate ≠ .hunt ∨ s.rxPending = true
    · exact .inl ⟨.inr h2, by simp only [execTxsend, if_neg h, if_pos h2]⟩
    · refine .inr ⟨h, by_contra fun hc => h2 (.inl hc), ?_, by simp only [execTxsend, if_neg h, if_neg h2]⟩
      exact Bool.eq_false_iff.mpr fun hc => h2 (.inr hc)

/-! ## Registers and the port -/

/-- RD: a register's value, or an error. -/
theorem execRd_cases (a : Byte) (s : State) :
    (∃ r, regAt a = some r ∧ execRd a s = .next (finish (readReg s r) s))
      ∨ (regAt a = none ∧ execRd a s = .next (raiseOpErr .badAddr s)) := by
  unfold execRd
  cases h : regAt a with
  | some r => exact .inl ⟨r, rfl, rfl⟩
  | none => exact .inr ⟨rfl, rfl⟩

/-- WR: one of the four kinds of write, or an error. -/
theorem execWr_cases (a : Byte) (d : Half) (s : State) :
    (regAt a = some .status ∧ execWr a d s = .next (finish 0x0000 (clearEvents d s)))
      ∨ (regAt a = some .irqEn ∧ execWr a d s = .next (finish 0x0000 (writeIrqEn d s)))
      ∨ (regAt a = some .cmdTargetTemp ∧ execWr a d s = .next (finish 0x0000 (writeCmdTargetTemp d s)))
      ∨ (∃ f, regAt a = some (.cmd f) ∧ execWr a d s = .next (finish 0x0000 (writeCmdRaw f d s)))
      ∨ execWr a d s = .next (raiseOpErr .badWrite s) := by
  unfold execWr
  cases h : regAt a with
  | none => exact .inr (.inr (.inr (.inr rfl)))
  | some r =>
    cases r with
    | status => exact .inl ⟨rfl, rfl⟩
    | irqEn => exact .inr (.inl ⟨rfl, rfl⟩)
    | cmdTargetTemp => exact .inr (.inr (.inl ⟨rfl, rfl⟩))
    | cmd f => exact .inr (.inr (.inr (.inl ⟨f, rfl, rfl⟩)))
    | _ => exact .inr (.inr (.inr (.inr rfl)))

/-- A word runs its instruction or raises OpErr. -/
theorem runWord_cases (w : Word) (s : State) :
    (∃ i, decodeOp w = .ok i ∧ runWord w s = exec i s)
      ∨ (∃ e, decodeOp w = .error e ∧ runWord w s = .next (raiseOpErr .illegal s)) := by
  unfold runWord
  cases decodeOp w with
  | ok i => exact .inl ⟨i, rfl, rfl⟩
  | error e => exact .inr ⟨e, rfl, rfl⟩

/-- A step waits with no sample, or runs the next sample's word on the state with that sample taken. -/
theorem step_cases (s : State) :
    (s.inputs = [] ∧ step s = .next s)
      ∨ ∃ x rest, s.inputs = x :: rest ∧ step s = runWord x.word (takeInput x rest s) := by
  unfold step stepPort
  cases s.inputs with
  | nil => exact .inl ⟨rfl, rfl⟩
  | cons x rest => exact .inr ⟨x, rest, rfl, rfl⟩

end Sys2Proof.Machine
end

