-- ==== Sys2Proof/Laws/PerInstr.lean ====
section
/-! SUPPORT. Facts about every instruction as syntax, one lemma per constructor. -/

namespace Sys2Proof.Laws.EncodeShape

open Sys2Proof.Machine

/-- The code of a well-formed instruction has the shape its encoding has (30_encoding.md R80, R90, R93): an operation
is a word; a frame class is 10 to 34 bytes that begin with the start marker. -/
def Statement (i : Instr) : Prop :=
  i.wellFormed = true →
    match encode i with
    | .op _ => isOperation i = true
    | .frame bytes =>
        isOperation i = false ∧ 10 ≤ bytes.length ∧ bytes.length ≤ 34 ∧ bytes.head? = some Config.sof

/-- The length of a frame's bytes (30_encoding.md R93). -/
theorem bytes_length (f : Frame) : f.bytes.length = 10 + f.body.length := by
  simp only [Frame.bytes, Frame.header, List.length_append, List.length_cons, List.length_nil, placeCsum_length]
  omega

/-- The bytes of a frame that fits have the shape of a wire frame. -/
theorem bytes_shape {f : Frame} (h : f.fits = true) :
    10 ≤ f.bytes.length ∧ f.bytes.length ≤ 34 ∧ f.bytes.head? = some Config.sof := by
  have h24 : f.body.length ≤ 24 := of_decide_eq_true h
  refine ⟨by rw [bytes_length]; omega, by rw [bytes_length]; omega, rfl⟩

/-- The first of two checks that hold together. -/
theorem first_check {a b : Bool} (h : (a && b) = true) : a = true :=
  (Bool.and_eq_true _ _ ▸ h).1

theorem nop : Statement (.nop) := fun _ => rfl
theorem rxb (b : Byte) : Statement (.rxb b) := fun _ => rfl
theorem tick : Statement (.tick) := fun _ => rfl
theorem parse : Statement (.parse) := fun _ => rfl
theorem encPong : Statement (.encPong) := fun _ => rfl
theorem encReqs : Statement (.encReqs) := fun _ => rfl
theorem encReqb : Statement (.encReqb) := fun _ => rfl
theorem encSetc : Statement (.encSetc) := fun _ => rfl
theorem txsend : Statement (.txsend) := fun _ => rfl
theorem rd (a : Byte) : Statement (.rd a) := fun _ => rfl
theorem wr (a : Byte) (d : Half) : Statement (.wr a d) := fun _ => rfl
theorem cmdclr : Statement (.cmdclr) := fun _ => rfl
theorem txclr : Statement (.txclr) := fun _ => rfl
theorem rxclr : Statement (.rxclr) := fun _ => rfl
theorem srst : Statement (.srst) := fun _ => rfl
theorem ping (f : Frame) : Statement (.ping f) := fun h => ⟨rfl, bytes_shape (first_check h)⟩
theorem command (f : Frame) : Statement (.command f) := fun h => ⟨rfl, bytes_shape (first_check h)⟩
theorem infoSetpEcho (f : Frame) : Statement (.infoSetpEcho f) := fun h => ⟨rfl, bytes_shape (first_check h)⟩
theorem infoSmall (f : Frame) : Statement (.infoSmall f) := fun h => ⟨rfl, bytes_shape (first_check h)⟩
theorem infoBig (f : Frame) : Statement (.infoBig f) := fun h => ⟨rfl, bytes_shape (first_check h)⟩
theorem infoPeriodic (f : Frame) : Statement (.infoPeriodic f) := fun h => ⟨rfl, bytes_shape (first_check h)⟩
theorem infoOther (f : Frame) : Statement (.infoOther f) := fun h => ⟨rfl, bytes_shape (first_check (first_check (show ((f.fits && _) && _) = true from h)))⟩
theorem infoShort (f : Frame) : Statement (.infoShort f) := fun h => ⟨rfl, bytes_shape (first_check (first_check (show ((f.fits && _) && _) = true from h)))⟩
theorem init (f : Frame) : Statement (.init f) := fun h => ⟨rfl, bytes_shape (first_check h)⟩
theorem unknownVendor (f : Frame) : Statement (.unknownVendor f) := fun h => ⟨rfl, bytes_shape (first_check h)⟩
theorem otherType (f : Frame) : Statement (.otherType f) := fun h => ⟨rfl, bytes_shape (first_check h)⟩

end Sys2Proof.Laws.EncodeShape
end

