-- ==== Sys2Proof/Tests/Slice0.lean ====
section
/-! SUPPORT. Tests: words and frames written out from the spec decode to what they stand for; ill-formed terms are
refused; single steps against 95_test_vectors.md; and for each statement with hypotheses a state that meets them. -/

set_option maxRecDepth 8000

namespace Sys2Proof.Tests

open Sys2Proof.Machine

/-! ## Helpers -/

/-- The state an outcome gives; the reset state stands for none, and no test rests on it. -/
def stateOf (o : Host.Outcome State Fault Refusal) : State :=
  match o with
  | .next t => t
  | .fault _ => .reset
  | .refused _ => .reset

/-- The state after one instruction. -/
def after (i : Instr) (s : State) : State := stateOf (exec i s)

/-- The reset state with a complete frame in RXBUF. -/
def held (bytes : List Byte) : State := holdFrame bytes .reset

/-- The reset state with the first bytes of a frame received, the first of them at this time, and this time now. -/
def receiving (bytes : List Byte) (start now : Word) : State :=
  { State.reset with
    fstate := .recv, rxBuf := blit zeroBuf 0 bytes, rxCount := bytes.length, rxStart := start, now := now }

/-- The reset state with this many noise bytes 0x11 in RXBUF. -/
def noisy (n : Nat) : State :=
  { State.reset with rxBuf := blit zeroBuf 0 (List.replicate n 0x11), rxCount := n }

/-- The reset state with a request queued (vector EN-2). -/
def queued : State := after .encReqs .reset

def zeros (n : Nat) : List Byte := List.replicate n 0x00

/-- The ping of vector CK-1. -/
def pingBytes : List Byte := [0xBB, 0x00, 0x01, 0x00, 0x00, 0x00, 0x00, 0x00, 0xFF, 0x43]

/-- The body of vector PA-1. -/
def smallBody : List Byte := [0x01, 0x11, 0x98, 0x00, 0x00, 0x80] ++ zeros 9

/-- The frame of vector PA-1. -/
def smallBytes : List Byte := [0xBB, 0x00, 0x07, 0x00, 0x00, 0x00, 0x0F, 0x00] ++ smallBody ++ [0x6D, 0x95]

/-- The body of vector PA-5. -/
def bigBody : List Byte := [0x01, 0x21, 0x00, 0x39, 0x00, 0x2A] ++ zeros 17 ++ [0x05]

/-- The frame of vector PA-5. -/
def bigBytes : List Byte := [0xBB, 0x00, 0x07, 0x00, 0x00, 0x00, 0x18, 0x00] ++ bigBody ++ [0x76, 0x24]

/-- The body of vector PA-6. -/
def periodicBody : List Byte := [0x01, 0x2C, 0x00, 0x1E, 0x00, 0x10] ++ zeros 17 ++ [0x03]

/-- A frame with zero header bytes of this type and this body. -/
def plain (ptype : Byte) (body : List Byte) : Frame := ⟨0x00, ptype, 0x00, 0x00, 0x00, 0x00, body⟩

/-! ## Decoding: the words of 30_encoding.md R82 and R104, the frames of 95_test_vectors.md -/

theorem test_decode_nop : decode (.op 0x00000000) = .ok .nop := by decide
theorem test_decode_rxb : decode (.op 0x100000BB) = .ok (.rxb 0xBB) := by decide
theorem test_decode_tick : decode (.op 0x20000000) = .ok .tick := by decide
theorem test_decode_parse : decode (.op 0x30000000) = .ok .parse := by decide
theorem test_decode_encPong : decode (.op 0x40000000) = .ok .encPong := by decide
theorem test_decode_encReqs : decode (.op 0x41000000) = .ok .encReqs := by decide
theorem test_decode_encReqb : decode (.op 0x42000000) = .ok .encReqb := by decide
theorem test_decode_encSetc : decode (.op 0x43000000) = .ok .encSetc := by decide
theorem test_decode_txsend : decode (.op 0x50000000) = .ok .txsend := by decide
theorem test_decode_rd : decode (.op 0x60890000) = .ok (.rd 0x89) := by decide
theorem test_decode_wr : decode (.op 0x703080FF) = .ok (.wr 0x30 0x80FF) := by decide
theorem test_decode_cmdclr : decode (.op 0x80000000) = .ok .cmdclr := by decide
theorem test_decode_txclr : decode (.op 0x90000000) = .ok .txclr := by decide
theorem test_decode_rxclr : decode (.op 0xA0000000) = .ok .rxclr := by decide
theorem test_decode_srst : decode (.op 0xF0000000) = .ok .srst := by decide

/-- CK-1. -/
theorem test_decode_ping : decode (.frame pingBytes) = .ok (.ping (plain 0x01 [])) := by decide
/-- CK-2: every header byte is read from its place. -/
theorem test_decode_pong :
    decode (.frame [0xBB, 0x00, 0x01, 0x80, 0x01, 0x00, 0x08, 0x00, 0x1C, 0x27, 0, 0, 0, 0, 0, 0, 0x58, 0x1E])
      = .ok (.ping ⟨0x00, 0x01, 0x80, 0x01, 0x00, 0x00, [0x1C, 0x27, 0, 0, 0, 0, 0, 0]⟩) := by decide
/-- PA-20. -/
theorem test_decode_command :
    decode (.frame [0xBB, 0x00, 0x06, 0x00, 0x00, 0x00, 0x02, 0x00, 0x11, 0x01, 0xFE, 0x2B])
      = .ok (.command (plain 0x06 [0x11, 0x01])) := by decide
/-- PA-18. -/
theorem test_decode_infoSetpEcho :
    decode (.frame [0xBB, 0x00, 0x07, 0x00, 0x00, 0x00, 0x02, 0x00, 0x01, 0x01, 0xFE, 0x3A])
      = .ok (.infoSetpEcho (plain 0x07 [0x01, 0x01])) := by decide
/-- PA-1. -/
theorem test_decode_infoSmall : decode (.frame smallBytes) = .ok (.infoSmall (plain 0x07 smallBody)) := by decide
/-- PA-5. -/
theorem test_decode_infoBig : decode (.frame bigBytes) = .ok (.infoBig (plain 0x07 bigBody)) := by decide
/-- PA-6. -/
theorem test_decode_infoPeriodic :
    decode (.frame ([0xBB, 0x00, 0x07, 0x00, 0x00, 0x00, 0x18, 0x00] ++ periodicBody ++ [0xA2, 0x24]))
      = .ok (.infoPeriodic (plain 0x07 periodicBody)) := by decide
/-- PA-19. -/
theorem test_decode_infoOther :
    decode (.frame [0xBB, 0x00, 0x07, 0x00, 0x00, 0x00, 0x02, 0x00, 0x01, 0x99, 0x66, 0x3A])
      = .ok (.infoOther (plain 0x07 [0x01, 0x99])) := by decide
/-- PA-16. -/
theorem test_decode_infoShort :
    decode (.frame [0xBB, 0x00, 0x07, 0x00, 0x00, 0x00, 0x01, 0x00, 0x55, 0xFE, 0xE7])
      = .ok (.infoShort (plain 0x07 [0x55])) := by decide
/-- PA-21. -/
theorem test_decode_init :
    decode (.frame [0xBB, 0x00, 0x09, 0x00, 0x00, 0x00, 0x00, 0x00, 0xFF, 0x3B])
      = .ok (.init (plain 0x09 [])) := by decide
/-- PA-22. -/
theorem test_decode_unknownVendor :
    decode (.frame [0xBB, 0x00, 0x0B, 0x00, 0x00, 0x00, 0x00, 0x00, 0xFF, 0x39])
      = .ok (.unknownVendor (plain 0x0B [])) := by decide
/-- PA-23. -/
theorem test_decode_otherType :
    decode (.frame [0xBB, 0x00, 0x42, 0x00, 0x00, 0x00, 0x00, 0x00, 0xFF, 0x02])
      = .ok (.otherType (plain 0x42 [])) := by decide

/-- OE-1, OE-3, OE-4, OE-5, OE-6: an illegal word is no instruction. -/
theorem test_decode_illegal :
    decode (.op 0x00000001) = .error .fieldNotZero ∧ decode (.op 0x11000000) = .error .subNotZero
      ∧ decode (.op 0xB0000000) = .error .reservedOpc ∧ decode (.op 0x44000000) = .error .reservedSub
      ∧ decode (.op 0x40010000) = .error .fieldNotZero := by decide
/-- PA-13, and bytes that are no frame for another reason. -/
theorem test_decode_no_frame :
    decode (.frame [0xBB, 0x00, 0x01, 0x00, 0x00, 0x00, 0x00, 0x00, 0x43, 0xFF]) = .error .badChecksum
      ∧ decode (.frame [0x00, 0x00, 0x01, 0x00, 0x00, 0x00, 0x00, 0x00, 0xFF, 0x43]) = .error .noStartMarker
      ∧ decode (.frame [0xBB, 0x00, 0x01, 0x00, 0x00, 0x00, 0x19, 0x00, 0xFF, 0x43]) = .error .bodyTooLong
      ∧ decode (.frame (pingBytes ++ [0x00])) = .error .wrongLength := by decide

/-! ## WellFormed: an ill-formed term for each check -/

theorem test_wf_body_too_long :
    (Instr.ping (plain 0x01 (zeros 25))).wellFormed = false
      ∧ (Instr.ping (plain 0x01 (zeros 24))).wellFormed = true := by decide
theorem test_wf_ping_type : (Instr.ping (plain 0x06 [])).wellFormed = false := by decide
theorem test_wf_command_type : (Instr.command (plain 0x01 [])).wellFormed = false := by decide
theorem test_wf_infoSetpEcho_code : (Instr.infoSetpEcho (plain 0x07 [0x01, 0x11])).wellFormed = false := by decide
theorem test_wf_infoSmall_code : (Instr.infoSmall (plain 0x07 [0x11, 0x01])).wellFormed = false := by decide
theorem test_wf_infoBig_type : (Instr.infoBig (plain 0x06 bigBody)).wellFormed = false := by decide
theorem test_wf_infoPeriodic_short : (Instr.infoPeriodic (plain 0x07 [0x2C])).wellFormed = false := by decide
theorem test_wf_infoOther_listed : (Instr.infoOther (plain 0x07 [0x00, 0x21])).wellFormed = false := by decide
theorem test_wf_infoShort_long : (Instr.infoShort (plain 0x07 [0x00, 0x00])).wellFormed = false := by decide
theorem test_wf_init_type : (Instr.init (plain 0x0B [])).wellFormed = false := by decide
theorem test_wf_unknownVendor_type : (Instr.unknownVendor (plain 0x09 [])).wellFormed = false := by decide
theorem test_wf_otherType_known : (Instr.otherType (plain 0x07 [])).wellFormed = false := by decide

/-! ## Single steps, against 95_test_vectors.md -/

/-- FR-1. -/
theorem test_rxb_start :
    let t := after (.rxb 0xBB) { State.reset with now := 1000 }
    t.result = 1 ∧ t.fstate = .recv ∧ t.rxCount = 1 ∧ t.rxBuf[0] = 0xBB ∧ t.rxStart = 1000 ∧ t.status = 0 := by
  decide
/-- FR-6: the 34th byte with L = 25. -/
theorem test_rxb_overflow :
    let t := after (.rxb 0x00) (receiving ([0xBB, 0x00, 0x07, 0x00, 0x00, 0x00, 0x19, 0x00] ++ zeros 25) 0 0)
    t.status = 0x0004 ∧ t.rxCount = 0 ∧ t.fstate = .hunt := by decide
/-- FR-10: the elapsed time wraps. -/
theorem test_tick_wraps :
    (after .tick (receiving [0xBB] 0xFFFFFFF0 0x00000086)).fstate = .recv
      ∧ (after .tick (receiving [0xBB] 0xFFFFFFF0 0x00000087)).fstate = .hunt := by decide
/-- FR-14. -/
theorem test_rxclr :
    let t := after .rxclr (receiving [0xBB, 0x00, 0x01] 0 0)
    t.fstate = .hunt ∧ t.rxCount = 0 ∧ t.rxBuf = zeroBuf ∧ t.status = 0 := by decide
/-- PA-1, by PARSE from RXBUF. -/
theorem test_parse_small :
    let t := after .parse (held smallBytes)
    t.result = 4 ∧ t.status = 0x0081 ∧ t.acTargetTemp = 275 ∧ t.acRaw.vLouver = 0 ∧ t.retained = true
      ∧ lstateValue t = 0x001C := by decide
/-- PA-13. -/
theorem test_parse_bad_checksum :
    let t := after .parse (held [0xBB, 0x00, 0x01, 0x00, 0x00, 0x00, 0x00, 0x00, 0x43, 0xFF])
    t.result = 1 ∧ t.status = 0x0002 ∧ t.rxCount = 0 ∧ t.fstate = .hunt := by decide
/-- PA-12. -/
theorem test_ping_pong_dropped :
    let t := after (.ping (plain 0x01 [])) queued
    t.result = 2 ∧ t.status = 0x0241 ∧ t.txCount = 12 := by decide
/-- PA-20. -/
theorem test_command : (after (.command (plain 0x06 [0x11, 0x01])) .reset).status = 0x0101 := by decide
/-- PA-18. -/
theorem test_infoSetpEcho : (after (.infoSetpEcho (plain 0x07 [0x01, 0x01])) .reset).result = 6 := by decide
/-- PA-14. -/
theorem test_infoSmall_short :
    let t := after (.infoSmall (plain 0x07 (smallBody.take 14))) .reset
    t.result = 8 ∧ t.status = 0x0101 ∧ t.smallValid = false := by decide
/-- PA-9. -/
theorem test_infoSmall_largest :
    (after (.infoSmall (plain 0x07 ([0x01, 0x11, 0xF8, 0x00, 0x00, 0x80] ++ zeros 9))) .reset).acTargetTemp = 395 := by
  decide
/-- PA-5. -/
theorem test_infoBig :
    let t := after (.infoBig (plain 0x07 bigBody)) .reset
    t.acAmbient = 0x00FF ∧ t.acOutdoor = 0x0064 ∧ t.status = 0x0081 := by decide
/-- PA-7. -/
theorem test_infoBig_largest :
    let t := after (.infoBig (plain 0x07 ([0x01, 0x21, 0x00, 0xFF, 0x00, 0xFF] ++ zeros 17 ++ [0xFF]))) .reset
    t.acAmbient = 0x09B5 ∧ t.acOutdoor = 0x08B6 := by decide
/-- PA-6. -/
theorem test_infoPeriodic :
    let t := after (.infoPeriodic (plain 0x07 periodicBody)) .reset
    t.acAmbient = 0xFFEF ∧ t.acOutdoor = 0xFF60 := by decide
/-- PA-19. -/
theorem test_infoOther : (after (.infoOther (plain 0x07 [0x01, 0x99])) .reset).result = 7 := by decide
/-- PA-16. -/
theorem test_infoShort : (after (.infoShort (plain 0x07 [0x55])) .reset).result = 8 := by decide
/-- PA-21. -/
theorem test_init : (after (.init (plain 0x09 [])) .reset).result = 9 := by decide
/-- PA-22. -/
theorem test_unknownVendor : (after (.unknownVendor (plain 0x0B [])) .reset).result = 9 := by decide
/-- PA-23. -/
theorem test_otherType : (after (.otherType (plain 0x42 [])) .reset).result = 9 := by decide
/-- EN-1. -/
theorem test_encPong :
    queuedBytes (after .encPong .reset)
      = [0xBB, 0x00, 0x01, 0x80, 0x01, 0x00, 0x08, 0x00, 0x1C, 0x27, 0, 0, 0, 0, 0, 0, 0x58, 0x1E] := by decide
/-- EN-2. -/
theorem test_encReqs :
    queuedBytes queued = [0xBB, 0x00, 0x06, 0x80, 0x00, 0x00, 0x02, 0x00, 0x11, 0x01, 0x7E, 0x2B] := by decide
/-- EN-3. -/
theorem test_encReqb :
    queuedBytes (after .encReqb .reset)
      = [0xBB, 0x00, 0x06, 0x80, 0x00, 0x00, 0x02, 0x00, 0x21, 0x01, 0x7E, 0x1B] := by decide
/-- EN-4: SETTT 255 on the base of PA-1. -/
theorem test_encSetc :
    let s := { State.reset with smallValid := true, cmdTargetTemp := 0x80FF,
                                lastSmall := #v[0x98, 0, 0, 0x80, 0, 0, 0, 0, 0, 0, 0, 0, 0] }
    queuedBytes (after .encSetc s)
      = [0xBB, 0x00, 0x06, 0x80, 0x00, 0x00, 0x0F, 0x00, 0x01, 0x01, 0x88, 0x00, 0x00, 0x80]
          ++ zeros 9 ++ [0xFD, 0xA5] := by decide
/-- EN-9. -/
theorem test_encSetc_no_base :
    let t := after .encSetc .reset
    t.result = 0xFFFF ∧ t.status = 0x0800 ∧ t.txCount = 0 := by decide
/-- EN-13. -/
theorem test_txsend :
    let t := after .txsend queued
    t.result = 1 ∧ t.tx = some [0xBB, 0x00, 0x06, 0x80, 0x00, 0x00, 0x02, 0x00, 0x11, 0x01, 0x7E, 0x2B]
      ∧ t.lastTxCsum = 0x2B7E ∧ t.status = 0x0400 ∧ t.txCount = 0 ∧ t.txBuf = txEmptyBuf := by decide
/-- EN-11. -/
theorem test_txsend_deferred : (after .txsend { queued with rxPending := true }).txCount = 12 := by decide
/-- EN-15. -/
theorem test_txclr :
    let t := after .txclr queued
    t.txCount = 0 ∧ readReg t (.txBuf 0) = 0x00BB ∧ readReg t (.txBuf 3) = 0x0080 ∧ readReg t (.txBuf 8) = 0 := by
  decide
/-- RG-5. -/
theorem test_rd : (after (.rd 0xC3) .reset).result = 0x0080 := by decide
/-- OE-9. -/
theorem test_rd_reserved : (after (.rd 0x31) .reset).status = 0x0800 := by decide
/-- RG-1. -/
theorem test_wr_status : (after (.wr 0x00 0x0081) { State.reset with status := 0x0FFF }).status = 0x0F7E := by decide
/-- RG-4. -/
theorem test_wr_truncates : (after (.rd 0x37) (after (.wr 0x37 0x80FF) .reset)).result = 0x8007 := by decide
/-- RG-7. -/
theorem test_cmdclr :
    (after .cmdclr { State.reset with cmdTargetTemp := 0x80FA }).cmdTargetTemp = 0 := by decide
/-- RG-8. -/
theorem test_srst : after .srst { queued with status := 0x0FFF, irqEn := 0x0081, noiseLast := 34 } = .reset := by
  decide
/-- 44_register_ops.md R220. -/
theorem test_nop : after .nop .reset = .reset := by decide
/-- OE-14, from the port. -/
theorem test_step_illegal :
    stateOf (step (State.reset.withFetchWord 32 0xF0000001)) = opErrOf .reset := by decide
/-- RG-3: a level output. -/
theorem test_irq : (after (.wr 0x01 0xFFFF) { State.reset with status := 0x0F7E }).irq = true := by decide

/-! ## Witnesses: for each statement with hypotheses, states and operands that meet them, clause by clause -/

/-- One sample at the port. -/
def sample (w : Word) : State := { State.reset with inputs := [⟨w, 5, true⟩] }

theorem test_wit_SrstRestoresTheResetState : opcNat 0xF0000001 = 0xF ∧ (0xF0000001 : Word) ≠ 0xF0000000 := by decide
theorem test_wit_StepRunsTheDecodedInstruction :
    ((sample 0x100000BB).inputs = ⟨0x100000BB, 5, true⟩ :: [] ∧ decodeOp 0x100000BB = .ok (.rxb 0xBB))
      ∧ ((sample 0xB0000000).inputs = ⟨0xB0000000, 5, true⟩ :: [] ∧ decodeOp 0xB0000000 = .error .reservedOpc)
      ∧ State.reset.inputs = [] := by decide
theorem test_wit_PresentedWordRunsNext :
    decodeOp 0xF0000000 = .ok .srst ∧ decodeOp 0xF0000001 = .error .fieldNotZero := by decide
theorem test_wit_DecodeOfEncodeIsTheInstruction :
    (Instr.otherType ⟨0x01, 0xFF, 0x80, 0x02, 0x03, 0x04, List.replicate 24 0xFF⟩).wellFormed = true
      ∧ (Instr.infoShort (plain 0x07 [0x2C])).wellFormed = true
      ∧ (Instr.wr 0xFF 0xFFFF).wellFormed = true := by decide
theorem test_wit_EncodeOfDecodeIsTheCode :
    decode (.frame bigBytes) = .ok (.infoBig (plain 0x07 bigBody))
      ∧ decode (.op 0x70FFFFFF) = .ok (.wr 0xFF 0xFFFF) := by decide
theorem test_wit_OperationWordsAreTheOpcodeMap :
    decodeOp 0x60FF0000 = .ok (.rd 0xFF)
      ∧ (∀ r ∈ opcodeMap, (0xB0000000 : Word) &&& r.mask ≠ r.pattern)
      ∧ (∀ r ∈ opcodeMap, (0x10000100 : Word) &&& r.mask ≠ r.pattern)
      ∧ ∃ r ∈ opcodeMap, (0x60FF0000 : Word) &&& r.mask = r.pattern ∧ r.build 0x60FF0000 = .rd 0xFF := by decide
theorem test_wit_IllegalWordsRaiseOpErr :
    illegalWord 0xB0000000 ∧ illegalWord 0xE0000000 ∧ illegalWord 0x44000000 ∧ illegalWord 0x4F000000
      ∧ illegalWord 0x11000000 ∧ illegalWord 0x00000001 ∧ illegalWord 0x10000100 ∧ illegalWord 0x60000001
      ∧ ¬ illegalWord 0x43000000 ∧ ¬ illegalWord 0x70FFFFFF ∧ ¬ illegalWord 0x100000FF := by
  simp [illegalWord, reservedZero, opcNat, subNat, addrNat, dataNat]
theorem test_wit_FrameClassesAreTheTableRows :
    (plain 0x07 [0x00, 0x11]).fits = true ∧ (plain 0x07 [0x11]).fits = true
      ∧ (plain 0x02 (zeros 24)).fits = true := by decide
theorem test_wit_RxbIsRefusedWhileParsing : (held pingBytes).fstate = .parsing := by decide
/-- Nothing received; noise to flush; the last noise byte before NOISE_OVF; a retained frame. -/
theorem test_wit_HuntByteStartsAFrameOrIsNoise :
    (noisy 0).fstate = .hunt ∧ (noisy 3).fstate = .hunt ∧ 0 < (noisy 3).rxCount
      ∧ (noisy 33).fstate = .hunt ∧ (noisy 33).rxCount + 1 = 34
      ∧ (after .parse (held pingBytes)).fstate = .hunt ∧ (after .parse (held pingBytes)).retained = true := by decide
/-- The last byte of a ping at the last count in time; a 34th byte with L = 25; a byte in between. -/
theorem test_wit_FrameByteIsStoredAndMayComplete :
    let full := receiving (pingBytes.take 9) 0xFFFFFFF0 0x86
    let long := receiving ([0xBB, 0x00, 0x07, 0x00, 0x00, 0x00, 0x19, 0x00] ++ zeros 25) 0 0
    let some := receiving [0xBB] 1000 1000
    (full.fstate = .recv ∧ elapsed full = 150 ∧ 8 ≤ full.rxCount + 1 ∧ full.rxCount + 1 = 8 + (full.rxBuf[6]).toNat + 2)
      ∧ (long.fstate = .recv ∧ elapsed long ≤ 150 ∧ long.rxCount + 1 = 34)
      ∧ (some.fstate = .recv ∧ elapsed some ≤ 150) := by decide
theorem test_wit_TimedOutByteIsHandledInHunt :
    (receiving [0xBB, 0x00, 0x01] 1000 1151).fstate = .recv ∧ elapsed (receiving [0xBB, 0x00, 0x01] 1000 1151) = 151 := by
  decide
/-- Elapsed 150 and 151, across the wrap; and a word that is no TICK (OE-15). -/
theorem test_wit_TickDropsOnlyATimedOutFrame :
    (elapsed (receiving [0xBB] 0xFFFFFFF0 0x86) = 150 ∧ elapsed (receiving [0xBB] 0xFFFFFFF0 0x87) = 151)
      ∧ opcNat 0x20010000 = 0x2 ∧ (0x20010000 : Word) ≠ 0x20000000 := by decide
theorem test_wit_RxclrDiscardsTheReceiveSide : opcNat 0xA0000001 = 0xA ∧ (0xA0000001 : Word) ≠ 0xA0000000 := by decide
/-- Each edge's start, and an instruction that answers there. -/
theorem test_wit_FramerMovesOnlyAlongItsEdges :
    isOperation (.rxb 0xBB) = true ∧ isOperation .parse = true
      ∧ (∃ t, exec (.rxb 0xBB) .reset = .next t ∧ State.reset.fstate = .hunt ∧ t.fstate = .recv)
      ∧ (∃ t, exec (.rxb 0x43) (receiving (pingBytes.take 9) 0 150) = .next t ∧ t.fstate = .parsing)
      ∧ (∃ t, exec (.rxb 0x43) (receiving (pingBytes.take 9) 0 151) = .next t ∧ t.fstate = .hunt)
      ∧ (∃ t, exec .parse (held pingBytes) = .next t ∧ (held pingBytes).fstate = .parsing ∧ t.fstate = .hunt) :=
  ⟨by decide, by decide, ⟨_, rfl, by decide⟩, ⟨_, rfl, by decide⟩, ⟨_, rfl, by decide⟩, ⟨_, rfl, by decide⟩⟩

/-- 33 bytes of a frame with this L. -/
def almostFull (len : Byte) : State :=
  receiving ([0xBB, 0x00, 0x07, 0x00, 0x00, 0x00, len, 0x00] ++ zeros 25) 0 150

theorem rxInv_almostFull (len : Byte) (h : len = 0x18 ∨ len = 0x19) : RxInv (almostFull len) := by
  obtain rfl | rfl := h <;> exact ⟨⟨rfl, by decide, by decide, by decide, by decide⟩, by unfold zeroFrom; decide, by decide⟩

/-- L = 24 and L = 25. -/
theorem test_wit_ThirtyFourthByteOverflowsAboveBody24 :
    (RxInv (almostFull 0x18) ∧ (almostFull 0x18).fstate = .recv ∧ elapsed (almostFull 0x18) ≤ 150
        ∧ (almostFull 0x18).rxCount = 33 ∧ ((almostFull 0x18).rxBuf[6]).toNat ≤ 24)
      ∧ (RxInv (almostFull 0x19) ∧ (almostFull 0x19).fstate = .recv ∧ elapsed (almostFull 0x19) ≤ 150
        ∧ (almostFull 0x19).rxCount = 33 ∧ 24 < ((almostFull 0x19).rxBuf[6]).toNat) :=
  ⟨⟨rxInv_almostFull _ (.inl rfl), by decide⟩, ⟨rxInv_almostFull _ (.inr rfl), by decide⟩⟩

/-- A ping with a TICK, a RD, a PARSE too early and an ENC.REQS between its bytes, the last byte 150 after the first,
after noise. -/
def pingSchedule : List (Instr × Word) :=
  [(.rxb 0xBB, 1000), (.tick, 1001), (.rxb 0x00, 1002), (.rxb 0x01, 1003), (.rd 0x00, 1003), (.rxb 0x00, 1004),
   (.rxb 0x00, 1005), (.parse, 1006), (.rxb 0x00, 1007), (.encReqs, 1008), (.rxb 0x00, 1009), (.rxb 0x00, 1010),
   (.rxb 0xFF, 1011), (.rxb 0x43, 1150)]

theorem test_wit_InterleavedDeliveryBuildsTheFrame :
    (noisy 3).fstate = .hunt ∧ bodyLen pingBytes ≤ 24 ∧ pingBytes.length = 10 + bodyLen pingBytes
      ∧ deliveredBytes pingSchedule = pingBytes ∧ pingSchedule.head? = some (.rxb 0xBB, 1000)
      ∧ (∃ b t1, pingSchedule.getLast? = some (.rxb b, t1))
      ∧ (∀ o ∈ pingSchedule, keepsReceiving o.1 ∧ (o.2 - 1000).toNat ≤ 150) :=
  ⟨by decide, by decide, by decide, by decide, by decide, ⟨0x43, 1150, by decide⟩,
    by unfold keepsReceiving; decide⟩

/-- CK-6: the fold carries. CK-5: it does not. -/
theorem test_wit_FoldModesDifferOnlyOnACarry :
    let xs : List Byte := [0xBB, 0x00, 0x07, 0x00, 0x00, 0x00, 0x0B, 0x00] ++ List.replicate 11 0x33
    (xs.length ≤ 32 ∧ 0xFFFF < wordSum xs / 65536 + wordSum xs % 65536)
      ∧ ([0xBB, 0x00, 0x07, 0x00, 0x00, 0x00, 0x01, 0x00, 0x55] : List Byte).length ≤ 32 := by decide
/-- The ping's checksum bytes as they are. -/
theorem test_wit_BothChecksumBytesMustMatch :
    (plain 0x01 []).fits = true
      ∧ placeCsum (checksum ((plain 0x01 []).header ++ (plain 0x01 []).body)) = [0xFF, 0x43] := by decide
/-- The first byte and the last one of the longest sequence; the shortest sequence. -/
theorem test_wit_OneFlippedBitChangesTheChecksum :
    let xs : List Byte := [0xBB, 0x00, 0x07, 0x00, 0x00, 0x00, 0x18, 0x00] ++ List.replicate 24 0xFF
    (8 ≤ xs.length ∧ xs.length ≤ 32 ∧ xs.head? = some 0xBB ∧ 0 < xs.length ∧ 31 < xs.length ∧ 7 < 8)
      ∧ (8 ≤ (pingBytes.take 8).length ∧ (pingBytes.take 8).head? = some 0xBB) := by decide
theorem test_wit_WordOrderDoesNotMatter :
    ([0xBB, 0x00] : List Byte).length % 2 = 0 ∧ ([] : List Byte).length % 2 = 0 := by decide

theorem rxInv_held (bytes : List Byte) (h : bytes = bigBytes ∨ bytes = pingBytes ++ []
    ∨ bytes = [0xBB, 0x00, 0x01, 0x00, 0x00, 0x00, 0x00, 0x00, 0x43, 0xFF]) : RxInv (held bytes) := by
  obtain rfl | rfl | rfl := h <;> exact ⟨⟨rfl, by decide, by decide, by decide⟩, by unfold zeroFrom; decide, by decide⟩

/-- The longest frame, and a ping with its checksum bytes exchanged. -/
theorem test_wit_ParseVerifiesThenRunsTheFrame :
    let bad : State := held [0xBB, 0x00, 0x01, 0x00, 0x00, 0x00, 0x00, 0x00, 0x43, 0xFF]
    (RxInv (held bigBytes) ∧ (held bigBytes).fstate = .parsing
        ∧ decodeFrame ((held bigBytes).rxBuf.toList.take (held bigBytes).rxCount) = .ok (.infoBig (plain 0x07 bigBody)))
      ∧ (RxInv bad ∧ bad.fstate = .parsing
        ∧ decodeFrame (bad.rxBuf.toList.take bad.rxCount) = .error .badChecksum) :=
  ⟨⟨rxInv_held _ (.inl rfl), by decide⟩, ⟨rxInv_held _ (.inr (.inr rfl)), by decide⟩⟩
/-- A parsed big status, then operations up to a TXSEND; and a frame that fails. -/
theorem test_wit_RetainedFrameStaysUntilDiscarded :
    let bad : State := held [0xBB, 0x00, 0x01, 0x00, 0x00, 0x00, 0x00, 0x00, 0x43, 0xFF]
    let ops : List (Instr × Word) := [(.rd 0x80, 5), (.parse, 6), (.tick, 400), (.encPong, 401), (.txsend, 402)]
    (RxInv (held bigBytes) ∧ (held bigBytes).fstate = .parsing ∧ csumMatches (held bigBytes).rxBuf.toList = true
        ∧ ∀ o ∈ ops, isOperation o.1 = true ∧ (∀ b, o.1 ≠ .rxb b) ∧ o.1 ≠ .rxclr ∧ o.1 ≠ .srst)
      ∧ (RxInv bad ∧ bad.fstate = .parsing ∧ csumMatches bad.rxBuf.toList = false) :=
  ⟨⟨rxInv_held _ (.inl rfl), by decide, by decide, by simp [isOperation]⟩, ⟨rxInv_held _ (.inr (.inr rfl)), by decide⟩⟩
theorem test_wit_PingIsAnsweredOrItsPongDropped :
    State.reset.txCount = 0 ∧ queued.txCount ≠ 0
      ∧ (plain 0x01 (zeros 24)).fits = true ∧ (plain 0x01 (zeros 24)).classOf = .ping := by decide
theorem test_wit_IgnoredFramesOnlySetTheirCode :
    ((plain 0x07 (smallBody.take 14)).body.length = 14 ∧ (plain 0x07 (bigBody.take 23)).body.length = 23)
      ∧ ((plain 0x07 (smallBody.take 14)).fits = true ∧ (plain 0x07 (smallBody.take 14)).classOf = .infoSmall)
      ∧ ((plain 0x07 (bigBody.take 23)).fits = true ∧ (plain 0x07 (bigBody.take 23)).classOf = .infoBig)
      ∧ ((plain 0x07 [0x2C]).fits = true ∧ (plain 0x07 [0x2C]).classOf = .infoShort)
      ∧ ((plain 0xFF []).fits = true ∧ (plain 0xFF []).classOf = .otherType) := by decide
theorem test_wit_SmallStatusIsDecoded :
    (plain 0x07 smallBody).body.length = 15 ∧ State.reset.smallValid = false
      ∧ (plain 0x07 smallBody).fits = true ∧ (plain 0x07 smallBody).classOf = .infoSmall := by decide
theorem test_wit_BigStatusIsDecoded :
    (plain 0x07 bigBody).body.length = 24 ∧ State.reset.bigValid = false
      ∧ ((plain 0x07 bigBody).fits = true ∧ (plain 0x07 bigBody).classOf = .infoBig)
      ∧ ((plain 0x07 periodicBody).fits = true ∧ (plain 0x07 periodicBody).classOf = .infoPeriodic) := by decide
/-- The status decoded twice: the second time nothing differs, at any layout. -/
theorem test_wit_SmallStatusIsDecoded_unchanged :
    let f := plain 0x07 smallBody
    let s := after (.infoSmall f) .reset
    let t := after (.infoSmall f) s
    15 ≤ f.body.length ∧ exec (.infoSmall f) s = .next t
      ∧ ¬ (s.smallValid = false ∨ t.acTargetTemp ≠ s.acTargetTemp ∨ ∃ F, t.acRaw.get F ≠ s.acRaw.get F) := by
  have acRaw_after (u : State) : (after (.infoSmall (plain 0x07 smallBody)) u).acRaw = rawFields smallBody := by
    show (parsed .small (decodeSmall smallBody) u).acRaw = _
    simp [parsed, endParse, decodeSmall]
  have temp_after (u : State) : (after (.infoSmall (plain 0x07 smallBody)) u).acTargetTemp = 275 := by
    show (parsed .small (decodeSmall smallBody) u).acTargetTemp = _
    simp only [parsed, endParse, decodeSmall, finish_acTargetTemp, setFState_acTargetTemp, retainFrame_acTargetTemp,
      setEventIf_acTargetTemp, setParseResult_acTargetTemp, writeSmall_acTargetTemp]
    decide
  refine ⟨by decide, rfl, ?_⟩
  rintro (h | h | ⟨F, h⟩)
  · exact absurd h (by decide)
  · exact h (by rw [temp_after, temp_after])
  · exact h (by rw [acRaw_after, acRaw_after])
theorem test_wit_BigStatusIsDecoded_unchanged :
    let f := plain 0x07 bigBody
    let s := after (.infoBig f) .reset
    let t := after (.infoBig f) s
    24 ≤ f.body.length ∧ exec (.infoBig f) s = .next t ∧ exec (.infoPeriodic f) s = .next t
      ∧ ¬ (s.bigValid = false ∨ t.acAmbient ≠ s.acAmbient ∨ t.acOutdoor ≠ s.acOutdoor) :=
  ⟨by decide, rfl, rfl, by decide⟩
theorem test_wit_SecondDecodeReportsNoChange :
    (15 ≤ (plain 0x07 smallBody).body.length ∧ ∃ t, exec (.infoSmall (plain 0x07 smallBody)) .reset = .next t)
      ∧ (24 ≤ (plain 0x07 bigBody).body.length ∧ ∃ t, exec (.infoBig (plain 0x07 bigBody)) .reset = .next t)
      ∧ (24 ≤ (plain 0x07 periodicBody).body.length
          ∧ ∃ t, exec (.infoPeriodic (plain 0x07 periodicBody)) .reset = .next t) :=
  ⟨⟨by decide, _, rfl⟩, ⟨by decide, _, rfl⟩, ⟨by decide, _, rfl⟩⟩
theorem test_wit_OnlyStatusDecodesWriteAcState :
    (∃ t, exec .parse (held bigBytes) = .next t ∧ t.bigValid = true) ∧ (Instr.parse ≠ .srst)
      ∧ (∃ t, exec (.infoSmall (plain 0x07 smallBody)) .reset = .next t ∧ t.smallValid = true) :=
  ⟨⟨_, rfl, by decide⟩, by decide, ⟨_, rfl, by decide⟩⟩
theorem test_wit_OperationErrorsChangeNothingElse :
    illegalWord 0x71000000 ∧ State.reset.fstate ≠ .parsing ∧ queued.txCount ≠ 0
      ∧ (State.reset.txCount = 0 ∧ State.reset.smallValid = false)
      ∧ (reservedAddr 0x0C = true ∧ reservedAddr 0x7F = true ∧ reservedAddr 0xE2 = true ∧ reservedAddr 0xFF = true)
      ∧ (writableAddr 0x02 = false ∧ writableAddr 0x32 = false ∧ writableAddr 0x3E = false) :=
  ⟨.inr (.inr (.inl (by decide))), by decide⟩
theorem test_wit_StatusBitsStayUntilCleared :
    (∃ t, exec (.wr 0x01 0xFFFF) { State.reset with status := 0x0801 } = .next t)
      ∧ (0x0801 : Half).getLsbD 11 = true ∧ Instr.wr 0x01 0xFFFF ≠ .srst
      ∧ ∀ d, Instr.wr 0x01 0xFFFF ≠ .wr 0x00 d :=
  ⟨⟨_, rfl⟩, by decide, by decide, by intro d h; injection h with h1 _; exact absurd h1 (by decide)⟩
theorem test_wit_FixedFramesAreBuilt :
    State.reset.txCount = 0 ∧ queued.txCount ≠ 0
      ∧ (opcNat 0x40010000 = 4 ∧ subNat 0x40010000 ≤ 2 ∧ addrNat 0x40010000 ≠ 0)
      ∧ (opcNat 0x4200FFFF = 4 ∧ subNat 0x4200FFFF ≤ 2 ∧ dataNat 0x4200FFFF ≠ 0) := by decide

/-- A base from PA-1 with this target temperature override, and overrides of the vertical louver and of power. -/
def withBase (target : Half) : State :=
  { State.reset with
    smallValid := true, cmdTargetTemp := target, lastSmall := #v[0x98, 0, 0, 0x80, 0, 0, 0, 0, 0, 0, 0, 0, 0]
    cmdRaw := { CmdRaw.untouched with vLouver := ⟨true, 0x05⟩, power := ⟨true, 0xFF⟩ } }

/-- The target temperature untouched, and at both ends of its 15 bits. -/
theorem test_wit_SetParamsFrameIsBuilt :
    (withBase 0).txCount = 0 ∧ (withBase 0).smallValid = true ∧ (withBase 0).cmdTargetTemp.getLsbD 15 = false
      ∧ (withBase 0x8000).cmdTargetTemp.getLsbD 15 = true ∧ (withBase 0xFFFF).cmdTargetTemp.getLsbD 15 = true := by
  decide
/-- A bit of the body that no field covers under one layout: bit 7 of the last body byte of the stand-in one. -/
theorem test_wit_SetParamsFrameIsBuilt_free_bit :
    12 < 13 ∧ 7 < 8 ∧ ∀ p ∈ Config.entries Config.standInLayout, ¬ (p.byte = 12 + 2 ∧ p.lo ≤ 7 ∧ 7 < p.lo + p.width) := by
  decide
theorem test_wit_OverrideOrderDoesNotMatter :
    (zeros 15).length = 15 ∧ CmdField.all.reverse.Perm CmdField.all
      ∧ ((withBase 0).cmdRaw.get .power).valid = true ∧ ((withBase 0).cmdRaw.get .mildew).valid = false :=
  ⟨by decide, List.reverse_perm _, by decide⟩
theorem test_wit_TargetTemperatureIsClampedAndRoundedDown :
    (zeros 15).length = 15 ∧ (0x8000 : Half).getLsbD 15 = true ∧ (0x80A0 : Half).toNat % 32768 = 160
      ∧ (0x8140 : Half).toNat % 32768 = 320 ∧ (0xFFFF : Half).getLsbD 15 = true := by decide

/-- The AC registers as a decode of this LAST_SMALL leaves them, the two temperatures at the ends of their ranges. -/
def decoded (target : Half) : State :=
  { withBase target with
    acTargetTemp := 275, acRaw := rawFields ([0x00, 0x00] ++ (withBase target).lastSmall.toList)
    acAmbient := 2485, acOutdoor := BitVec.ofInt 16 (-320) }

theorem acInv_decoded (target : Half) : AcInv (decoded target) := by
  refine ⟨fun f => ?_, fun _ => ?_, (by decide : (-320 : Int) ≤ (2485#16).toInt ∧ (2485#16).toInt ≤ 2485),
    (by decide : (-320 : Int) ≤ (BitVec.ofInt 16 (-320)).toInt ∧ (BitVec.ofInt 16 (-320)).toInt ≤ 2230
      ∧ (BitVec.ofInt 16 (-320)).toInt % 10 = 0)⟩
  rotate_left
  · exact (by decide : 275 = targetTenths ([0x00, 0x00] ++ [0x98, 0, 0, 0x80, 0, 0, 0, 0, 0, 0, 0, 0, 0]))
  cases f <;> exact BitVec.toNat_setWidth_of_le (by decide : 8 ≤ 16)

theorem test_wit_SetParamsRoundTrip :
    (AcInv (decoded 0) ∧ (decoded 0).txCount = 0 ∧ (decoded 0).smallValid = true)
      ∧ (AcInv (decoded 0x815E) ∧ (decoded 0x815E).txCount = 0 ∧ (decoded 0x815E).smallValid = true) :=
  ⟨⟨acInv_decoded _, rfl, rfl⟩, ⟨acInv_decoded _, rfl, rfl⟩⟩
theorem test_wit_TxsendSendsWhenTheLineIsIdle :
    State.reset.txCount = 0
      ∧ (queued.txCount ≠ 0 ∧ ({ queued with rxPending := true } : State).rxPending = true
          ∧ ({ queued with fstate := .recv } : State).fstate ≠ .hunt)
      ∧ (queued.txCount ≠ 0 ∧ queued.fstate = .hunt ∧ queued.rxPending = false)
      ∧ opcNat 0x51000000 = 0x5 ∧ (0x51000000 : Word) ≠ 0x50000000 := by decide
theorem test_wit_OnlyAnIdleTxsendEmits : ∃ t, exec .txsend queued = .next t ∧ t.tx = some (queuedBytes queued) :=
  ⟨_, rfl, by decide⟩
theorem test_wit_TxclrEmptiesTheTransmitSide : opcNat 0x90000001 = 0x9 ∧ (0x90000001 : Word) ≠ 0x90000000 := by decide

/-- A set-params frame queued. -/
def queuedSetc : State :=
  { State.reset with txBuf := blit txEmptyBuf 0 (builtFrame 0x06 0x00 ([0x01, 0x01] ++ List.replicate 13 0xFF)).bytes
                     txCount := 25 }

theorem txInv_encPong : TxInv (after .encPong .reset) := by
  refine .inr ⟨.inl (by decide), ?_⟩
  unfold zeroFrom; decide
theorem txInv_queued : TxInv queued := by
  refine .inr ⟨.inr (.inl (by decide)), ?_⟩
  unfold zeroFrom; decide
theorem txInv_queuedSetc : TxInv queuedSetc := by
  refine .inr ⟨.inr (.inr ⟨rfl, [0x01, 0x01] ++ List.replicate 13 0xFF, by decide, by decide, by decide⟩), ?_⟩
  unfold zeroFrom; decide

/-- The pong, a request, a set-params frame. -/
theorem test_wit_QueuedFrameDeliveredBackVerifies :
    (TxInv (after .encPong .reset) ∧ (after .encPong .reset).txCount = 18 ∧ (noisy 33).fstate = .hunt)
      ∧ (TxInv queued ∧ queued.txCount = 12) ∧ (TxInv queuedSetc ∧ queuedSetc.txCount = 25) :=
  ⟨⟨txInv_encPong, by decide⟩, ⟨txInv_queued, by decide⟩, ⟨txInv_queuedSetc, rfl⟩⟩
theorem test_wit_NopChangesNothing : opcNat 0x00000001 = 0x0 ∧ (0x00000001 : Word) ≠ 0x00000000 := by decide
theorem test_wit_RegisterMapIsFixed :
    regAt 0xE1 = some (.txBuf 33) ∧ regAt 0x6C = some (.lastSmall 12) ∧ reservedAddr 0xE2 = true
      ∧ reservedAddr 0x6D = true ∧ writableAddr 0x1E = false ∧ writableAddr 0x3E = false := by decide
theorem test_wit_ComputedRegistersReadAsTheSpecSays :
    State.reset.rxCount ≤ 34 ∧ State.reset.noiseLast ≤ 34 ∧ queued.txCount ≤ 34 := by decide
theorem test_wit_ReadReturnsTheRegister :
    regAt 0x80 = some (.rxBuf 0) ∧ reservedAddr 0x0F = true
      ∧ (opcNat 0x61000000 = 6 ∧ subNat 0x61000000 ≠ 0) ∧ (opcNat 0x60000001 = 6 ∧ dataNat 0x60000001 ≠ 0)
      ∧ (RxInv (held pingBytes) ∧ (held pingBytes).rxCount ≤ (10 : Fin 34).val
          ∧ (0x8A : Byte) = 0x80 + BitVec.ofNat 8 (10 : Fin 34).val) :=
  ⟨by decide, by decide, by decide, by decide, rxInv_held _ (.inr (.inl rfl)), by decide, by decide⟩
theorem test_wit_WriteReachesOnlyItsRegister :
    (writableAddr 0x02 = false ∧ writableAddr 0x31 = false ∧ writableAddr 0x3E = false ∧ writableAddr 0x41 = false)
      ∧ opcNat 0x71000000 = 7 ∧ subNat 0x71000000 ≠ 0 ∧ CmdField.mode ≠ CmdField.power := by decide
theorem test_wit_CmdclrUntouchesEveryOverride : opcNat 0x80000001 = 0x8 ∧ (0x80000001 : Word) ≠ 0x80000000 := by decide

/-- The port with this word, on a state. -/
def fed (w : Word) (s : State) : State := { s with inputs := [⟨w, 150, false⟩] }

theorem test_wit_EveryStepKeepsTheReceiveInvariant :
    (RxInv (fed 0x10000000 (almostFull 0x18)) ∧ ∃ t, step (fed 0x10000000 (almostFull 0x18)) = .next t)
      ∧ (RxInv (fed 0x30000000 (held bigBytes)) ∧ ∃ t, step (fed 0x30000000 (held bigBytes)) = .next t) :=
  ⟨⟨rxInv_almostFull _ (.inl rfl), _, rfl⟩, ⟨rxInv_held _ (.inl rfl), _, rfl⟩⟩
theorem test_wit_EveryStepKeepsTheTransmitInvariant :
    (TxInv (fed 0x50000000 queued) ∧ ∃ t, step (fed 0x50000000 queued) = .next t)
      ∧ (TxInv (fed 0x42000000 .reset) ∧ ∃ t, step (fed 0x42000000 .reset) = .next t) :=
  ⟨⟨txInv_queued, _, rfl⟩, ⟨.inl ⟨rfl, rfl⟩, _, rfl⟩⟩
theorem test_wit_EveryStepKeepsTheAcInvariant :
    AcInv (fed 0x43000000 (decoded 0x80FF)) ∧ ∃ t, step (fed 0x43000000 (decoded 0x80FF)) = .next t :=
  ⟨acInv_decoded _, _, rfl⟩

/-- Every event set and enabled, the power override at 0. -/
def allEvents : State := { State.reset with status := 0x0FFF, irqEn := 0x0FFF }

theorem test_wit_EveryStepKeepsTheRegisterInvariant :
    RegInv (fed 0x703380FF allEvents) ∧ ∃ t, step (fed 0x703380FF allEvents) = .next t :=
  ⟨⟨by decide, by decide, fun f => by cases f <;> exact Nat.two_pow_pos _⟩, _, rfl⟩

end Sys2Proof.Tests
end

section
/-! SUPPORT. The register address space, stated once: an address names at most one register and each register has its
address; which registers take a write; what a RD and a WR do in terms of the register named. -/

namespace Sys2Proof.Machine

/-! ## Outcomes by their written-out forms -/

theorem finish_eq_answered (r : Half) (s : State) : finish r s = answered r s := rfl

theorem raiseOpErr_eq_opErrOf (c : OpErrCause) (s : State) : raiseOpErr c s = opErrOf s := rfl

/-! ## Addresses and registers -/

/-- Each register is the one at its own address (10_state.md R44). -/
@[simp] theorem regAt_addr (r : Reg) : regAt r.addr = some r := by
  cases r with
  | ac f => cases f <;> rfl
  | cmd f => cases f <;> rfl
  | lastSmall k => exact (by decide : ∀ k, regAt (Reg.lastSmall k).addr = some (.lastSmall k)) k
  | rxBuf i => exact (by decide : ∀ i, regAt (Reg.rxBuf i).addr = some (.rxBuf i)) i
  | txBuf i => exact (by decide : ∀ i, regAt (Reg.txBuf i).addr = some (.txBuf i)) i
  | _ => rfl

/-- No address names a register that lies elsewhere, checked over the 256 addresses. -/
theorem addr_of_mem_regAt : ∀ a : Byte, ∀ r ∈ regAt a, r.addr = a := by decide

theorem regAt_eq_some_iff {a : Byte} {r : Reg} : regAt a = some r ↔ r.addr = a :=
  ⟨addr_of_mem_regAt a r, fun h => h ▸ regAt_addr r⟩

/-- The addresses with no register are those 20_memory.md R68 lists, checked over the 256 addresses. -/
theorem regAt_eq_none_iff : ∀ a : Byte, regAt a = none ↔ reservedAddr a = true := by decide

/-! ## Which registers take a write -/

theorem writableAddr_cmd (F : CmdField) : writableAddr (Reg.cmd F).addr = true := by
  cases F <;> rfl

/-- A register whose address is read-only takes no write (44_register_ops.md R223). -/
theorem writeReg_eq_none {r : Reg} (h : writableAddr r.addr = false) (d : Half) (s : State) :
    writeReg d s r = none := by
  cases r with
  | status => exact absurd h (by decide)
  | irqEn => exact absurd h (by decide)
  | cmdTargetTemp => exact absurd h (by decide)
  | cmd F => simp [writableAddr_cmd] at h
  | _ => rfl

/-! ## RD and WR -/

/-- RD of a register's address answers its value (44_register_ops.md R222). -/
theorem exec_rd_addr (r : Reg) (s : State) : exec (.rd r.addr) s = .next (answered (readReg s r) s) := by
  simp [exec, execRd, finish_eq_answered]

/-- RD of a reserved address raises OpErr. -/
theorem exec_rd_reserved {a : Byte} (h : reservedAddr a = true) (s : State) :
    exec (.rd a) s = .next (opErrOf s) := by
  simp [exec, execRd, (regAt_eq_none_iff a).mpr h, raiseOpErr_eq_opErrOf]

/-- WR of a register that takes the write answers 0 on the written state (44_register_ops.md R223). -/
theorem exec_wr_addr {r : Reg} {d : Half} {s t : State} (h : writeReg d s r = some t) :
    exec (.wr r.addr d) s = .next (answered 0x0000 t) := by
  simp [exec, execWr, h, finish_eq_answered]

/-- WR of a read-only or a reserved address raises OpErr. -/
theorem exec_wr_readOnly {a : Byte} (h : writableAddr a = false) (d : Half) (s : State) :
    exec (.wr a d) s = .next (opErrOf s) := by
  have hnone : (regAt a).bind (writeReg d s) = none := by
    cases hr : regAt a with
    | none => rfl
    | some r =>
      obtain rfl := regAt_eq_some_iff.mp hr
      exact writeReg_eq_none h d s
  simp [exec, execWr, hnone, raiseOpErr_eq_opErrOf]

/-! ## The override registers -/

@[simp] theorem CmdRaw.get_set_same (r : CmdRaw) (F : CmdField) (v : CmdReg) : (r.set F v).get F = v := by
  cases F <;> rfl

theorem flagBit_toNat (b : Bool) {n : Nat} (h : n < 16) : (flagBit b n).toNat = if b then 2 ^ n else 0 := by
  cases b with
  | false => rfl
  | true =>
    simp only [flagBit, if_true, BitVec.toNat_shiftLeft, BitVec.toNat_ofNat, Nat.shiftLeft_eq]
    have : 2 ^ n < 2 ^ 16 := Nat.pow_lt_pow_right (by decide) h
    omega

/-- An override register as a number: VALID and VALUE share no bit, so they add (44_register_ops.md R221). -/
theorem CmdReg.read_toNat (r : CmdReg) : r.read.toNat = (if r.valid then 32768 else 0) + r.value.toNat := by
  have hv : (r.value.setWidth 16).toNat = r.value.toNat := by
    rw [BitVec.toNat_setWidth]; exact Nat.mod_eq_of_lt (by omega)
  rw [CmdReg.read, BitVec.toNat_or, hv, flagBit_toNat r.valid (by decide)]
  cases r.valid with
  | false => simp
  | true => exact (Nat.two_pow_add_eq_or_of_lt (i := 15) (by omega) 1).symm

/-- Bit 15 of a register value, at its place in the number. -/
theorem getLsbD_fifteen_weight (d : Half) : (if d.getLsbD 15 then 32768 else 0) = d.toNat / 32768 * 32768 := by
  have hbit : d.getLsbD 15 = decide (d.toNat / 32768 % 2 = 1) := by
    rw [BitVec.getLsbD, Nat.testBit_eq_decide_div_mod_eq]
  simp only [hbit, decide_eq_true_eq]
  split <;> omega

/-- The value a write of an override register stores: the low byte cut to the field's width (10_state.md R42). -/
theorem cut_toNat (d : Half) (F : RawField) :
    (d.extractLsb' 0 8 &&& fieldOnes (Config.layout F)).toNat = d.toNat % 256 % 2 ^ (Config.layout F).width := by
  obtain ⟨-, -, -, -, hw⟩ := Config.layout_bounds F
  rw [and_fieldOnes_toNat _ (by omega), BitVec.extractLsb'_toNat, Nat.shiftRight_zero]

/-- What an override register reads as after a write of it (10_state.md R42). -/
theorem readReg_writeCmdRaw_toNat (F : CmdField) (d : Half) (s : State) :
    (readReg (writeCmdRaw F d s) (.cmd F)).toNat =
      d.toNat / 32768 * 32768 + d.toNat % 256 % 2 ^ (Config.layout F.raw).width := by
  rw [readReg, writeCmdRaw_cmdRaw, CmdRaw.get_set_same, CmdReg.read_toNat, getLsbD_fifteen_weight, cut_toNat]

end Sys2Proof.Machine
end

section
/-! PROOFS. The register map and the override registers: O53 and O48. -/

namespace Sys2Proof.Proofs.StateRegisters

open Sys2Proof.Machine

/-- Settles O53: the write stores VALID and the cut value, and the read packs them again. -/
theorem overrideReadsBackTruncated : Obligations.OverrideReadsBackTruncated := by
  intro F s d
  have hwr : exec (.wr (Reg.cmd F).addr d) s = .next (answered 0x0000 (writeCmdRaw F d s)) :=
    exec_wr_addr rfl
  exact ⟨_, _, hwr, exec_rd_addr _ _, readReg_writeCmdRaw_toNat F d s, rfl, rfl⟩

/-! ## The register map, row by row -/

theorem registerMap_addr : ∀ r ∈ registerMap, r.addr = r.reg.addr := by decide

theorem registerMap_writable : ∀ r ∈ registerMap, writableAddr r.addr = r.writable := by decide

theorem registerMap_reset : ∀ r ∈ registerMap, readReg .reset r.reg = 0x0000 := by decide

theorem writableAddr_lastSmall : ∀ k, writableAddr (Reg.lastSmall k).addr = false := by decide

theorem writableAddr_rxBuf : ∀ i, writableAddr (Reg.rxBuf i).addr = false := by decide

theorem writableAddr_txBuf : ∀ i, writableAddr (Reg.txBuf i).addr = false := by decide

theorem readReg_reset_lastSmall (k : Fin 13) : readReg .reset (.lastSmall k) = 0x0000 := by
  simp [readReg, State.reset, Vector.get_eq_getElem]

theorem readReg_reset_rxBuf (i : Fin 34) : readReg .reset (.rxBuf i) = 0x0000 := by
  simp [readReg, State.reset, zeroBuf, Vector.get_eq_getElem]

/-- At reset TXBUF reads as `TxReset` leaves it (10_state.md R29). -/
theorem readReg_reset_txBuf (i : Fin 34) :
    readReg .reset (.txBuf i) = if i.val = 0 then 0x00BB else if i.val = 3 then 0x0080 else 0x0000 := by
  simp only [readReg, State.reset, Vector.get_eq_getElem, txEmptyBuf_getElem i.isLt]
  split_ifs with h3 h0
  · omega
  · rfl
  · rfl
  · rfl

/-- Settles O48: rows, buffers, reserved addresses, the two errors, each by its lemma. -/
theorem registerMapIsFixed : Obligations.RegisterMapIsFixed := by
  refine ⟨fun r hr => ⟨?_, registerMap_writable r hr, registerMap_reset r hr⟩, fun k => ?_, fun i => ?_, fun i => ?_,
    regAt_eq_none_iff, fun a s h => exec_rd_reserved h s, fun a d s h => exec_wr_readOnly h d s⟩
  · rw [registerMap_addr r hr, regAt_addr]
  · exact ⟨regAt_addr (.lastSmall k), writableAddr_lastSmall k, readReg_reset_lastSmall k⟩
  · exact ⟨regAt_addr (.rxBuf i), writableAddr_rxBuf i, readReg_reset_rxBuf i⟩
  · exact ⟨regAt_addr (.txBuf i), writableAddr_txBuf i, readReg_reset_txBuf i⟩

end Sys2Proof.Proofs.StateRegisters
end

section
/-! SUPPORT. Operation words by their fields: the fields as numbers, what a mask and a pattern say of each field, what
each format asks for, and the one format that decodes each OPC (30_encoding.md R80 to R84). -/

namespace Sys2Proof

open Sys2Proof.Machine

/-! ## Masks over fields side by side -/

/-- Values of equal widths side by side agree exactly if both parts do. -/
theorem append_inj_iff {m n : Nat} {a c : BitVec m} {b d : BitVec n} : a ++ b = c ++ d ↔ a = c ∧ b = d := by
  constructor
  · intro h
    have hhi : (a ++ b).extractLsb' n m = (c ++ d).extractLsb' n m := congrArg _ h
    have hlo : (a ++ b).extractLsb' 0 n = (c ++ d).extractLsb' 0 n := congrArg _ h
    rw [BitVec.extractLsb'_append_eq_left, BitVec.extractLsb'_append_eq_left] at hhi
    rw [BitVec.extractLsb'_append_eq_right, BitVec.extractLsb'_append_eq_right] at hlo
    exact ⟨hhi, hlo⟩
  · rintro ⟨rfl, rfl⟩
    rfl

/-- A mask of two parts asks of each part what its own mask asks. -/
theorem append_and_eq_iff {m n : Nat} {a ma pa : BitVec m} {b mb pb : BitVec n} :
    (a ++ b) &&& (ma ++ mb) = pa ++ pb ↔ a &&& ma = pa ∧ b &&& mb = pb := by
  rw [BitVec.and_append, append_inj_iff]

/-- A half is its two bytes side by side. -/
theorem half_bytes (d : Half) : d.extractLsb' 8 8 ++ d.extractLsb' 0 8 = d := by
  simp only [BitVec.extractLsb'_append_extractLsb'_eq_extractLsb']
  exact BitVec.extractLsb'_eq_self

/-! ## The fields of a word -/

/-- A word is its four fields side by side (30_encoding.md R80). -/
theorem opWord_fields (w : Word) : opWord (opcOf w) (subOf w) (addrOf w) (dataOf w) = w := by
  simp only [opWord, opcOf, subOf, addrOf, dataOf, BitVec.extractLsb'_append_extractLsb'_eq_extractLsb']
  exact BitVec.extractLsb'_eq_self

/-- A mask on a word is a mask on each of its fields. -/
theorem and_opWord_eq_iff (w : Word) {mo ms po ps : BitVec 4} {ma pa : Byte} {md pd : Half} :
    w &&& opWord mo ms ma md = opWord po ps pa pd ↔
      ((opcOf w &&& mo = po ∧ subOf w &&& ms = ps) ∧ addrOf w &&& ma = pa) ∧ dataOf w &&& md = pd := by
  conv_lhs => rw [← opWord_fields w]
  exact append_and_eq_iff.trans
    (and_congr_left' (append_and_eq_iff.trans (and_congr_left' append_and_eq_iff)))

theorem opcNat_eq (w : Word) : opcNat w = (opcOf w).toNat := by
  simp only [opcNat, opcOf, BitVec.extractLsb'_toNat, Nat.shiftRight_eq_div_pow]
  omega

theorem subNat_eq (w : Word) : subNat w = (subOf w).toNat := by
  simp only [subNat, subOf, BitVec.extractLsb'_toNat, Nat.shiftRight_eq_div_pow]

theorem addrNat_eq (w : Word) : addrNat w = (addrOf w).toNat := by
  simp only [addrNat, addrOf, BitVec.extractLsb'_toNat, Nat.shiftRight_eq_div_pow]

theorem dataNat_eq (w : Word) : dataNat w = (dataOf w).toNat := by
  simp only [dataNat, dataOf, BitVec.extractLsb'_toNat, Nat.shiftRight_zero]

theorem dataNat_div_eq (w : Word) : dataNat w / 256 = ((dataOf w).extractLsb' 8 8).toNat := by
  rw [dataNat_eq, BitVec.extractLsb'_toNat, Nat.shiftRight_eq_div_pow]
  omega

theorem toNat_eq_zero_iff {n : Nat} (x : BitVec n) : x.toNat = 0 ↔ x = 0 := by
  rw [← BitVec.toNat_inj]
  simp

/-- The address operand (30_encoding.md R83). -/
theorem addrOf_eq (w : Word) : addrOf w = (w >>> 16).setWidth 8 := by
  apply BitVec.eq_of_toNat_eq
  simp [addrOf]

/-- The data operand (30_encoding.md R83). -/
theorem dataOf_eq (w : Word) : dataOf w = w.setWidth 16 := by
  apply BitVec.eq_of_toNat_eq
  simp [dataOf]

/-- The byte operand (30_encoding.md R83). -/
theorem lowData_eq (w : Word) : (dataOf w).extractLsb' 0 8 = w.setWidth 8 := by
  apply BitVec.eq_of_toNat_eq
  simp only [dataOf, BitVec.extractLsb'_toNat, BitVec.toNat_setWidth, Nat.shiftRight_zero]
  omega

/-! ## The formats -/

/-- A check of reserved-zero fields lets its instruction through if it holds. -/
theorem guard_ok_iff {c : Bool} {i j : Instr} {e : DecodeError} :
    (if c then Except.ok j else .error e) = .ok i ↔ c = true ∧ j = i := by
  cases c <;> simp

theorem withReserved_ok_iff {w : Word} {z : Bool} {i j : Instr} :
    withReserved w z j = .ok i ↔ subOf w = 0 ∧ z = true ∧ j = i := by
  unfold withReserved
  by_cases hs : subOf w = 0
  · rw [if_neg (not_not_intro hs), guard_ok_iff, and_iff_right hs]
  · simp only [if_pos (show subOf w ≠ 0 from hs), hs, false_and, reduceCtorEq]

theorem formatN_ok_iff {w : Word} {i j : Instr} :
    formatN w j = .ok i ↔ subOf w = 0 ∧ (addrOf w = 0 ∧ dataOf w = 0) ∧ j = i := by
  simp only [formatN, withReserved_ok_iff, Bool.and_eq_true, beq_iff_eq]

theorem formatB_ok_iff {w : Word} {i : Instr} {mk : Byte → Instr} :
    formatB w mk = .ok i ↔
      subOf w = 0 ∧ (addrOf w = 0 ∧ (dataOf w).extractLsb' 8 8 = 0) ∧ mk ((dataOf w).extractLsb' 0 8) = i := by
  simp only [formatB, withReserved_ok_iff, Bool.and_eq_true, beq_iff_eq]

theorem formatA_ok_iff {w : Word} {i : Instr} {mk : Byte → Instr} :
    formatA w mk = .ok i ↔ subOf w = 0 ∧ dataOf w = 0 ∧ mk (addrOf w) = i := by
  simp only [formatA, withReserved_ok_iff, beq_iff_eq]

theorem formatAD_ok_iff {w : Word} {i : Instr} {mk : Byte → Half → Instr} :
    formatAD w mk = .ok i ↔ subOf w = 0 ∧ mk (addrOf w) (dataOf w) = i := by
  simp only [formatAD, withReserved_ok_iff, true_and]

/-- The ENC operations, each with its SUB (30_encoding.md R82). -/
def encOps : List (Nat × Instr) :=
  [(0, .encPong), (1, .encReqs), (2, .encReqb), (3, .encSetc)]

theorem formatS_ok_iff {w : Word} {i : Instr} :
    formatS w = .ok i ↔ (subNat w, i) ∈ encOps ∧ addrOf w = 0 ∧ dataOf w = 0 := by
  have hzero : (addrOf w == 0 && dataOf w == 0) = true ↔ addrOf w = 0 ∧ dataOf w = 0 := by
    simp only [Bool.and_eq_true, beq_iff_eq]
  have chosen {j : Instr} {e : DecodeError} (hj : (subNat w, i) ∈ encOps ↔ j = i) :
      (if addrOf w == 0 && dataOf w == 0 then Except.ok j else .error e) = .ok i ↔
        (subNat w, i) ∈ encOps ∧ addrOf w = 0 ∧ dataOf w = 0 := by
    rw [guard_ok_iff, hzero, hj, and_comm]
  unfold formatS
  rw [← subNat_eq]
  split
  case h_1 h | h_2 h | h_3 h | h_4 h => exact chosen (by simp [encOps, h, eq_comm])
  case h_5 =>
    have hnone : (subNat w, i) ∉ encOps := by simp_all [encOps]
    simp [hnone]

/-! ## The OPC chooses the format -/

/-- The operations of format N, each with its OPC (30_encoding.md R81, R82). -/
def plainOps : List (Nat × Instr) :=
  [(0x0, .nop), (0x2, .tick), (0x3, .parse), (0x5, .txsend), (0x8, .cmdclr), (0x9, .txclr), (0xA, .rxclr),
   (0xF, .srst)]

/-- How each OPC is decoded: the five formats, and the four OPCs that have none. -/
theorem decodeOp_cases (w : Word) :
    (∃ j, (opcNat w, j) ∈ plainOps ∧ decodeOp w = formatN w j)
      ∨ (opcNat w = 0x1 ∧ decodeOp w = formatB w .rxb)
      ∨ (opcNat w = 0x4 ∧ decodeOp w = formatS w)
      ∨ (opcNat w = 0x6 ∧ decodeOp w = formatA w .rd)
      ∨ (opcNat w = 0x7 ∧ decodeOp w = formatAD w .wr)
      ∨ ((0xB ≤ opcNat w ∧ opcNat w ≤ 0xE) ∧ decodeOp w = .error .reservedOpc) := by
  have hlt : opcNat w < 16 := opcNat_eq w ▸ (opcOf w).isLt
  unfold decodeOp
  rw [← opcNat_eq]
  split
  case h_1 h | h_3 h | h_4 h | h_6 h | h_9 h | h_10 h | h_11 h | h_12 h =>
    refine .inl ⟨_, ?_, rfl⟩
    rw [h]
    decide
  case h_2 h => exact .inr (.inl ⟨h, rfl⟩)
  case h_5 h => exact .inr (.inr (.inl ⟨h, rfl⟩))
  case h_7 h => exact .inr (.inr (.inr (.inl ⟨h, rfl⟩)))
  case h_8 h => exact .inr (.inr (.inr (.inr (.inl ⟨h, rfl⟩))))
  case h_13 =>
    refine .inr (.inr (.inr (.inr (.inr ⟨?_, rfl⟩))))
    simp only [imp_false] at *
    omega

/-! ## What decodes to nothing, and what it does -/

/-- No format N operation has the OPC of another format, nor a reserved one. -/
theorem plainOps_opc :
    ∀ p ∈ plainOps, p.1 ≠ 1 ∧ p.1 ≠ 6 ∧ p.1 ≠ 7 ∧ p.1 ≠ 4 ∧ ¬ (0xB ≤ p.1 ∧ p.1 ≤ 0xE) := by decide

/-- The SUBs of the ENC operations are 0 to 3. -/
theorem encOps_sub (n : Nat) : (∃ i, (n, i) ∈ encOps) ↔ n < 4 := by
  have hsub : (∃ i, (n, i) ∈ encOps) ↔ n = 0 ∨ n = 1 ∨ n = 2 ∨ n = 3 := by simp [encOps, exists_or]
  rw [hsub]
  omega

/-- The decoder rejects the four kinds of illegal word of 30_encoding.md R84, and no other. -/
theorem decodeOp_ok_iff_not_illegal (w : Word) : (∃ i, decodeOp w = .ok i) ↔ ¬ illegalWord w := by
  unfold illegalWord reservedZero
  rcases decodeOp_cases w with ⟨j, hj, e⟩ | ⟨h, e⟩ | ⟨h, e⟩ | ⟨h, e⟩ | ⟨h, e⟩ | ⟨h, e⟩
  · obtain ⟨h1, h6, h7, h4, hres⟩ := plainOps_opc _ hj
    simp [h1, h4, h6, h7, hres, e, formatN_ok_iff, subNat_eq, addrNat_eq, dataNat_eq, toNat_eq_zero_iff]
  · simp [-BitVec.extractLsb'_toNat, h, e, formatB_ok_iff, subNat_eq, addrNat_eq, dataNat_div_eq, toNat_eq_zero_iff]
  · simp [h, e, formatS_ok_iff, encOps_sub, addrNat_eq, dataNat_eq, toNat_eq_zero_iff]
  · simp [h, e, formatA_ok_iff, subNat_eq, dataNat_eq, toNat_eq_zero_iff]
  · simp [h, e, formatAD_ok_iff, subNat_eq, toNat_eq_zero_iff]
  · simp [h, e]

/-- A word that decodes to no operation raises OpErr. -/
theorem runWord_of_not_op {w : Word} (h : ∀ i, decodeOp w ≠ .ok i) (s : State) :
    runWord w s = .next (opErrOf s) := by
  obtain ⟨i, hi, -⟩ | ⟨_, -, hrun⟩ := runWord_cases w s
  · exact absurd hi (h i)
  · rw [hrun, raiseOpErr_eq_opErrOf]

/-! ## The rows of the opcode map -/

/-- Each format N operation has its row, of the one word with its OPC and zeros. -/
theorem opcodeMap_plain :
    ∀ p ∈ plainOps, ⟨opWord (BitVec.ofNat 4 p.1) 0 0 0, 0xFFFFFFFF, fun _ => p.2⟩ ∈ opcodeMap := by
  simp [plainOps, opcodeMap, opWord]

/-- Each ENC operation has its row, of the one word with its SUB and zeros. -/
theorem opcodeMap_enc :
    ∀ p ∈ encOps, ⟨opWord 0x4 (BitVec.ofNat 4 p.1) 0 0, 0xFFFFFFFF, fun _ => p.2⟩ ∈ opcodeMap := by
  simp [encOps, opcodeMap, opWord]

/-- The mask of a row without operands asks for one word. -/
theorem and_whole (w : Word) : w &&& 0xFFFFFFFF = w := BitVec.and_allOnes

/-- The RXB row asks for OPC 1 and format B's reserved-zero fields. -/
theorem rxb_row_iff (w : Word) :
    w &&& 0xFFFFFF00 = 0x10000000 ↔
      ((opcOf w = 0x1 ∧ subOf w = 0) ∧ addrOf w = 0) ∧ (dataOf w).extractLsb' 8 8 = 0 := by
  have hdata : dataOf w &&& 0xFF00 = 0x0000 ↔ (dataOf w).extractLsb' 8 8 = 0 := by
    conv_lhs => rw [← half_bytes (dataOf w)]
    refine (append_and_eq_iff (ma := .allOnes 8) (mb := 0#8) (pa := 0) (pb := 0#8)).trans ?_
    simp only [BitVec.and_allOnes, BitVec.and_zero, and_true]
  refine (and_opWord_eq_iff w (mo := .allOnes 4) (ms := .allOnes 4) (ma := .allOnes 8) (md := 0xFF00)
    (po := 0x1) (ps := 0) (pa := 0) (pd := 0)).trans ?_
  simp only [BitVec.and_allOnes, hdata]

/-- The RD row asks for OPC 6 and format A's reserved-zero fields. -/
theorem rd_row_iff (w : Word) :
    w &&& 0xFF00FFFF = 0x60000000 ↔ (opcOf w = 0x6 ∧ subOf w = 0) ∧ dataOf w = 0 := by
  refine (and_opWord_eq_iff w (mo := .allOnes 4) (ms := .allOnes 4) (ma := 0#8) (md := .allOnes 16)
    (po := 0x6) (ps := 0) (pa := 0#8) (pd := 0)).trans ?_
  simp only [BitVec.and_allOnes, BitVec.and_zero, and_true]

/-- The WR row asks for OPC 7 and a zero SUB. -/
theorem wr_row_iff (w : Word) : w &&& 0xFF000000 = 0x70000000 ↔ opcOf w = 0x7 ∧ subOf w = 0 := by
  refine (and_opWord_eq_iff w (mo := .allOnes 4) (ms := .allOnes 4) (ma := 0#8) (md := 0#16)
    (po := 0x7) (ps := 0) (pa := 0#8) (pd := 0#16)).trans ?_
  simp only [BitVec.and_allOnes, BitVec.and_zero, and_true]

/-- The words of a row are operations, and decode to the row's. -/
theorem decodeOp_of_row (w : Word) :
    ∀ r ∈ opcodeMap, w &&& r.mask = r.pattern → decodeOp w = .ok (r.build w) := by
  have whole {p : Word} {i : Instr} (hp : decodeOp p = .ok i) (h : w &&& 0xFFFFFFFF = p) : decodeOp w = .ok i :=
    and_whole w ▸ h ▸ hp
  simp only [opcodeMap, List.forall_mem_cons]
  refine ⟨whole rfl, ?rxb, whole rfl, whole rfl, whole rfl, whole rfl, whole rfl, whole rfl, whole rfl, ?rd, ?wr,
    whole rfl, whole rfl, whole rfl, whole rfl, List.forall_mem_nil _⟩
  case rxb =>
    intro h
    obtain ⟨⟨⟨hopc, hsub⟩, haddr⟩, hdata⟩ := (rxb_row_iff w).mp h
    have hfmt : decodeOp w = formatB w .rxb := by rw [decodeOp, hopc]; rfl
    exact hfmt.trans (formatB_ok_iff.mpr ⟨hsub, ⟨haddr, hdata⟩, by rw [lowData_eq]⟩)
  case rd =>
    intro h
    obtain ⟨⟨hopc, hsub⟩, hdata⟩ := (rd_row_iff w).mp h
    have hfmt : decodeOp w = formatA w .rd := by rw [decodeOp, hopc]; rfl
    exact hfmt.trans (formatA_ok_iff.mpr ⟨hsub, hdata, by rw [addrOf_eq]⟩)
  case wr =>
    intro h
    obtain ⟨hopc, hsub⟩ := (wr_row_iff w).mp h
    have hfmt : decodeOp w = formatAD w .wr := by rw [decodeOp, hopc]; rfl
    exact hfmt.trans (formatAD_ok_iff.mpr ⟨hsub, by rw [addrOf_eq, dataOf_eq]⟩)

theorem opcOf_eq_ofNat (w : Word) : opcOf w = BitVec.ofNat 4 (opcNat w) := by
  rw [opcNat_eq, BitVec.ofNat_toNat, BitVec.setWidth_eq]

theorem subOf_eq_ofNat (w : Word) : subOf w = BitVec.ofNat 4 (subNat w) := by
  rw [subNat_eq, BitVec.ofNat_toNat, BitVec.setWidth_eq]

/-- A word with no operand fields set is its OPC and SUB. -/
theorem whole_row (w : Word) (haddr : addrOf w = 0) (hdata : dataOf w = 0) :
    w &&& 0xFFFFFFFF = opWord (BitVec.ofNat 4 (opcNat w)) (BitVec.ofNat 4 (subNat w)) 0 0 := by
  rw [and_whole, ← opcOf_eq_ofNat, ← subOf_eq_ofNat, ← haddr, ← hdata, opWord_fields]

/-- An operation's word is of one of the rows, and the operation is the row's. -/
theorem row_of_decodeOp {w : Word} {i : Instr} (h : decodeOp w = .ok i) :
    ∃ r ∈ opcodeMap, w &&& r.mask = r.pattern ∧ r.build w = i := by
  rcases decodeOp_cases w with ⟨j, hj, e⟩ | ⟨hopc, e⟩ | ⟨hopc, e⟩ | ⟨hopc, e⟩ | ⟨hopc, e⟩ | ⟨-, e⟩ <;>
    rw [e] at h
  · obtain ⟨hsub, ⟨haddr, hdata⟩, rfl⟩ := formatN_ok_iff.mp h
    rw [← toNat_eq_zero_iff, ← subNat_eq] at hsub
    exact ⟨_, opcodeMap_plain _ hj, by rw [whole_row w haddr hdata, hsub]; rfl, rfl⟩
  · obtain ⟨hsub, ⟨haddr, hdata⟩, rfl⟩ := formatB_ok_iff.mp h
    refine ⟨⟨0x10000000, 0xFFFFFF00, fun w => .rxb (w.setWidth 8)⟩, by simp [opcodeMap], ?_, by rw [lowData_eq]⟩
    exact (rxb_row_iff w).mpr ⟨⟨⟨by rw [opcOf_eq_ofNat, hopc]; rfl, hsub⟩, haddr⟩, hdata⟩
  · obtain ⟨hi, haddr, hdata⟩ := formatS_ok_iff.mp h
    exact ⟨_, opcodeMap_enc _ hi, by rw [whole_row w haddr hdata, hopc]; rfl, rfl⟩
  · obtain ⟨hsub, hdata, rfl⟩ := formatA_ok_iff.mp h
    refine ⟨⟨0x60000000, 0xFF00FFFF, fun w => .rd ((w >>> 16).setWidth 8)⟩, by simp [opcodeMap], ?_,
      by rw [addrOf_eq]⟩
    exact (rd_row_iff w).mpr ⟨⟨by rw [opcOf_eq_ofNat, hopc]; rfl, hsub⟩, hdata⟩
  · obtain ⟨hsub, rfl⟩ := formatAD_ok_iff.mp h
    refine ⟨⟨0x70000000, 0xFF000000, fun w => .wr ((w >>> 16).setWidth 8) (w.setWidth 16)⟩, by simp [opcodeMap], ?_,
      by rw [addrOf_eq, dataOf_eq]⟩
    exact (wr_row_iff w).mpr ⟨by rw [opcOf_eq_ofNat, hopc]; rfl, hsub⟩
  · cases h

end Sys2Proof
end

section
/-! SUPPORT. A frame's bytes at the start of a byte sequence: reading them gives the frame, its length and its
checksum, and the sequence that RXBUF then holds is parsed as the frame's class (30_encoding.md R90 to R95,
41_checksum.md R150). -/

namespace Sys2Proof.Machine

open Sys2Proof.Laws.EncodeShape

theorem length_le_of_fits {f : Frame} (h : f.fits = true) : f.body.length ≤ 24 := of_decide_eq_true h

/-- The length byte gives the body's length back (30_encoding.md R93). -/
theorem bodyLen_bytes_append {f : Frame} (h : f.fits = true) (rest : List Byte) :
    bodyLen (f.bytes ++ rest) = f.body.length := by
  have hlen := length_le_of_fits h
  show (BitVec.ofNat 8 f.body.length).toNat = f.body.length
  rw [BitVec.toNat_ofNat]
  omega

/-- Reading a frame's bytes gives the frame, whatever follows them. -/
theorem ofBytes_bytes_append {f : Frame} (h : f.fits = true) (rest : List Byte) :
    Frame.ofBytes (f.bytes ++ rest) = f := by
  have hbody : ((f.bytes ++ rest).drop 8).take f.body.length = f.body := by
    show (f.body ++ _ ++ rest).take f.body.length = f.body
    rw [List.append_assoc, List.take_left]
  rw [Frame.ofBytes, bodyLen_bytes_append h, Config.hdrLen, hbody]
  rfl

/-- A frame's own bytes pass Verify, whatever follows them (41_checksum.md R150). -/
theorem csumMatches_bytes_append {f : Frame} (h : f.fits = true) (rest : List Byte) :
    csumMatches (f.bytes ++ rest) = true := by
  have hlen : (f.header ++ f.body).length = 8 + f.body.length := by rw [List.length_append]; rfl
  obtain ⟨lo, hi, hcs⟩ := List.length_eq_two.mp (placeCsum_length (checksum (f.header ++ f.body)))
  have hbytes : f.bytes ++ rest = (f.header ++ f.body) ++ lo :: hi :: rest := by
    rw [Frame.bytes, hcs, List.append_assoc]
    rfl
  rw [csumMatches, bodyLen_bytes_append h, Config.hdrLen, hbytes, ← hlen, List.take_left, hcs,
    List.getD_append_right _ _ _ _ le_rfl, List.getD_append_right _ _ _ _ (Nat.le_add_right _ 1),
    Nat.sub_self, Nat.add_sub_cancel_left]
  exact beq_self_eq_true _

/-- A frame's bytes decode to the instruction of its class. -/
theorem decode_bytes {f : Frame} (h : f.fits = true) : decode (.frame f.bytes) = .ok (f.classOf.instr f) := by
  have hlen := bodyLen_bytes_append h []
  have hframe := ofBytes_bytes_append h []
  have hcsum := csumMatches_bytes_append h []
  rw [List.append_nil] at hlen hframe hcsum
  have hfits : ¬ Config.maxBody < f.body.length := Nat.not_lt.mpr (length_le_of_fits h)
  have hsof : f.bytes.getD 0 0x00 = Config.sof := rfl
  rw [decode, decodeFrame, if_neg (not_not_intro hsof), hlen, if_neg hfits, if_neg ?size, hcsum,
    if_neg Bool.noConfusion, hframe]
  case size =>
    rw [bytes_length, Config.hdrLen, Config.csumLen]
    omega

/-- A buffer a frame is held in starts with the frame's bytes. -/
theorem holdFrame_rxBuf_toList {f : Frame} (h : f.fits = true) (s : State) :
    ∃ rest, (holdFrame f.bytes s).rxBuf.toList = f.bytes ++ rest := by
  obtain ⟨-, h34, -⟩ := bytes_shape h
  refine ⟨(blit zeroBuf 0 f.bytes).toList.drop f.bytes.length, ?_⟩
  rw [holdFrame_rxBuf]
  conv_rhs => enter [1]; rw [← blit_toList_take zeroBuf h34]
  exact (List.take_append_drop _ _).symm

/-- PARSE of a held frame does what the instruction of its class does (42_decode.md R160, R161). -/
theorem exec_parse_holdFrame {f : Frame} (h : f.fits = true) (s : State) :
    exec .parse (holdFrame f.bytes s) = exec (f.classOf.instr f) (holdFrame f.bytes s) := by
  obtain ⟨rest, hbuf⟩ := holdFrame_rxBuf_toList h s
  rw [← dispatchFrame_eq_exec, exec, execParse, holdFrame_fstate]
  simp only [hbuf, rxFrame, csumMatches_bytes_append h, ofBytes_bytes_append h, if_true]

/-! ## The frame-class table -/

/-- The key is the packet type and the echo code side by side (30_encoding.md R95). -/
theorem dispatchKey_eq (f : Frame) : dispatchKey f = f.ptype ++ f.echo := by
  rw [dispatchKey, Frame.echo]
  split_ifs with h
  · rw [List.getD_eq_default _ _ (by omega)]
  · rfl

/-- A row that reads the packet type alone. -/
def typeRow (t : Byte) (least most : Nat) (c : FrameClass) : FrameRow :=
  ⟨t ++ 0#8, 0xFF00, least, most, c⟩

/-- A row for an info frame of one echo code. -/
def infoCodeRow (code : Byte) (c : FrameClass) : FrameRow :=
  ⟨0x07#8 ++ code, 0xFFFF, 2, 24, c⟩

/-- The row that takes every key. -/
def anyKeyRow (c : FrameClass) : FrameRow :=
  ⟨0x0000, 0x0000, 0, 24, c⟩

/-- The frame-class table by the kinds of its rows. -/
theorem frameClassTable_eq :
    frameClassTable =
      [typeRow 0x01 0 24 .ping, typeRow 0x06 0 24 .command, infoCodeRow 0x01 .infoSetpEcho,
       infoCodeRow 0x11 .infoSmall, infoCodeRow 0x21 .infoBig, infoCodeRow 0x2C .infoPeriodic,
       typeRow 0x07 2 24 .infoOther, typeRow 0x07 0 1 .infoShort, typeRow 0x09 0 24 .init,
       typeRow 0x0B 0 24 .unknownVendor, anyKeyRow .otherType] := rfl

@[simp] theorem typeRow_cls (t : Byte) (least most : Nat) (c : FrameClass) : (typeRow t least most c).cls = c := rfl
@[simp] theorem infoCodeRow_cls (code : Byte) (c : FrameClass) : (infoCodeRow code c).cls = c := rfl
@[simp] theorem anyKeyRow_cls (c : FrameClass) : (anyKeyRow c).cls = c := rfl

@[simp] theorem typeRow_takes (t : Byte) (least most : Nat) (c : FrameClass) (f : Frame) :
    (typeRow t least most c).takes f =
      decide (f.ptype.toNat = t.toNat ∧ least ≤ f.body.length ∧ f.body.length ≤ most) := by
  have hkey : dispatchKey f &&& 0xFF00 = t ++ 0#8 ↔ f.ptype = t := by
    rw [dispatchKey_eq]
    refine (append_and_eq_iff (ma := .allOnes 8) (mb := 0#8)).trans ?_
    simp only [BitVec.and_allOnes, BitVec.and_zero, and_true]
  rw [Bool.eq_iff_iff, FrameRow.takes, Bool.and_eq_true, beq_iff_eq, decide_eq_true_iff, decide_eq_true_iff,
    BitVec.toNat_inj]
  exact and_congr_left' hkey

@[simp] theorem infoCodeRow_takes (code : Byte) (c : FrameClass) (f : Frame) :
    (infoCodeRow code c).takes f =
      decide ((f.ptype.toNat = (0x07#8).toNat ∧ f.echo.toNat = code.toNat)
        ∧ 2 ≤ f.body.length ∧ f.body.length ≤ 24) := by
  have hkey : dispatchKey f &&& 0xFFFF = 0x07#8 ++ code ↔ f.ptype = 0x07#8 ∧ f.echo = code := by
    rw [dispatchKey_eq]
    refine (append_and_eq_iff (ma := .allOnes 8) (mb := .allOnes 8)).trans ?_
    simp only [BitVec.and_allOnes]
  rw [Bool.eq_iff_iff, FrameRow.takes, Bool.and_eq_true, beq_iff_eq, decide_eq_true_iff, decide_eq_true_iff,
    BitVec.toNat_inj, BitVec.toNat_inj]
  exact and_congr_left' hkey

@[simp] theorem anyKeyRow_takes (c : FrameClass) (f : Frame) :
    (anyKeyRow c).takes f = decide (f.body.length ≤ 24) := by
  simp [FrameRow.takes, anyKeyRow]

/-- The first row that takes a frame is the row of its class (30_encoding.md R95). -/
theorem find_row_classOf {f : Frame} (h : f.fits = true) :
    (frameClassTable.find? (fun r => r.takes f)).map FrameRow.cls = some f.classOf := by
  have hlen := length_le_of_fits h
  rw [frameClassTable_eq]
  unfold Frame.classOf
  split
  case h_1 ht | h_2 ht | h_4 ht | h_5 ht => simp [ht, hlen]
  case h_3 ht =>
    split_ifs with hshort
    · replace hshort : f.body.length < 2 := hshort
      simp [ht, Nat.not_le.mpr hshort, Nat.le_of_lt_succ hshort]
    · have hlong : 2 ≤ f.body.length := Nat.not_lt.mp hshort
      split
      case h_1 he | h_2 he | h_3 he | h_4 he => simp [ht, he, hlong, hlen]
      case h_5 =>
        simp only [imp_false] at *
        simp [*]
  case h_6 =>
    simp only [imp_false] at *
    simp [*]

end Sys2Proof.Machine
end

section
/-! PROOFS. The opcode map, the illegal words and the frame-class table: O9, O10 and O11. -/

namespace Sys2Proof.Proofs.Encoding

open Sys2Proof.Machine

/-- Settles O9: the rows and the decoder agree row by row, and a word of no row is no operation. -/
theorem operationWordsAreTheOpcodeMap : Obligations.OperationWordsAreTheOpcodeMap := by
  intro w
  refine ⟨fun i => ⟨row_of_decodeOp, ?_⟩, fun hnone => runWord_of_not_op fun i h => ?_⟩
  · rintro ⟨r, hr, hfit, rfl⟩
    exact decodeOp_of_row w r hr hfit
  · obtain ⟨r, hr, hfit, -⟩ := row_of_decodeOp h
    exact hnone r hr hfit

/-- Settles O10: the four kinds of illegal word are the words the decoder rejects. -/
theorem illegalWordsRaiseOpErr : Obligations.IllegalWordsRaiseOpErr := by
  intro w
  refine ⟨fun hill => runWord_of_not_op fun i h => ?_, (decodeOp_ok_iff_not_illegal w).mpr⟩
  exact (decodeOp_ok_iff_not_illegal w).mp ⟨i, h⟩ hill

/-- Settles O11: the class is the one the decoder reads and PARSE dispatches on. -/
theorem frameClassesAreTheTableRows : Obligations.FrameClassesAreTheTableRows := fun f h =>
  ⟨f.classOf, find_row_classOf h, decode_bytes h, exec_parse_holdFrame h⟩

end Sys2Proof.Proofs.Encoding
end

section
/-! SUPPORT. The framer's operations by their written-out outcomes: the receive timeout by the elapsed time, what RXB
and TICK do in each framer state, and what the words of an OPC of format N do (40_framer.md R112 to R121). -/

namespace Sys2Proof

open Sys2Proof.Machine

/-- A format N operation has one legal word: every other word of its OPC raises OpErr (30_encoding.md R81, R84). -/
theorem onlyLegalWord_of_plainOp {n : Nat} {i : Instr} (hi : (n, i) ∈ plainOps) (s : State) :
    onlyLegalWord n (opWord (BitVec.ofNat 4 n) 0 0 0) s := by
  rintro w rfl hne
  obtain ⟨h1, h6, h7, h4, hres⟩ := plainOps_opc _ hi
  refine runWord_of_not_op (fun j hj => hne ?_) s
  rcases decodeOp_cases w with ⟨k, -, e⟩ | ⟨h, -⟩ | ⟨h, -⟩ | ⟨h, -⟩ | ⟨h, -⟩ | ⟨h, -⟩
  · obtain ⟨hsub, ⟨haddr, hdata⟩, -⟩ := formatN_ok_iff.mp (e.symm.trans hj)
    rw [← opcOf_eq_ofNat, ← hsub, ← haddr, ← hdata, opWord_fields]
  · exact absurd h h1
  · exact absurd h h4
  · exact absurd h h6
  · exact absurd h h7
  · exact absurd h hres

end Sys2Proof

namespace Sys2Proof.Machine

/-! ## The receive timeout -/

/-- The elapsed time is the difference of the two counts modulo 2^32 (40_framer.md R114). -/
theorem elapsed_eq (s : State) : elapsed s = (s.now - s.rxStart).toNat := by
  rw [elapsed, BitVec.toNat_sub]
  omega

theorem timedOut_iff (s : State) : timedOut s = true ↔ 150 < elapsed s := by
  rw [elapsed_eq]
  exact decide_eq_true_iff

theorem timedOut_eq_false_iff (s : State) : timedOut s = false ↔ elapsed s ≤ 150 := by
  rw [← Bool.not_eq_true, timedOut_iff, Nat.not_lt]

theorem dropTimedOut_eq_timedOutOf (s : State) : dropTimedOut s = timedOutOf s := rfl

/-! ## Bytes by their written-out outcomes -/

theorem sof_eq : Config.sof = 0xBB := rfl

/-- The start of a frame, the noise before it flushed (40_framer.md R116). -/
theorem startFrame_eq (s : State) :
    startFrame s =
      { s with
        noiseLast := if 0 < s.rxCount then s.rxCount else s.noiseLast
        status := if 0 < s.rxCount then s.status ||| 0x0010 else s.status
        rxBuf := (Vector.replicate 34 0x00).set 0 0xBB
        rxCount := 1, retained := false, rxStart := s.now, fstate := .recv } := by
  unfold startFrame
  by_cases h : 0 < s.rxCount
  · simp only [if_pos h]
    rfl
  · simp only [if_neg h]
    rfl

/-- RXB accepts its byte outside PARSING (40_framer.md R112). -/
theorem exec_rxb_of_ne_parsing {s : State} (h : s.fstate ≠ .parsing) (b : Byte) :
    exec (.rxb b) s = .next (answered 0x0001 (acceptByte b s)) :=
  if_neg h

/-- In PARSING, RXB refuses its byte (40_framer.md R113). -/
theorem exec_rxb_of_parsing {s : State} (h : s.fstate = .parsing) (b : Byte) :
    exec (.rxb b) s = .next (answered 0x0000 s) :=
  if_pos h

/-- RXB hunts its byte in HUNT (40_framer.md R112). -/
theorem exec_rxb_of_hunt {s : State} (h : s.fstate = .hunt) (b : Byte) :
    exec (.rxb b) s = .next (answered 0x0001 (huntByte b s)) := by
  have hp : s.fstate ≠ .parsing := by simp [h]
  rw [exec_rxb_of_ne_parsing hp]
  obtain ⟨-, e⟩ | ⟨hr, -⟩ | ⟨hr, -⟩ := acceptByte_cases b s hp
  · rw [e]
  · simp [h] at hr
  · simp [h] at hr

/-- In RECV, RXB stores its byte when no timeout has passed (40_framer.md R112, R118). -/
theorem exec_rxb_of_recv {s : State} (h : s.fstate = .recv) (ht : elapsed s ≤ 150) (b : Byte) :
    exec (.rxb b) s = .next (answered 0x0001 (recvByte b s)) := by
  have hp : s.fstate ≠ .parsing := by simp [h]
  rw [exec_rxb_of_ne_parsing hp]
  obtain ⟨hh, -⟩ | ⟨-, hout, -⟩ | ⟨-, -, e⟩ := acceptByte_cases b s hp
  · simp [h] at hh
  · exact absurd ((timedOut_iff s).mp hout) (Nat.not_lt.mpr ht)
  · rw [e]

/-- In RECV after a timeout, RXB drops the frame and hunts its byte (40_framer.md R120). -/
theorem exec_rxb_of_timedOut {s : State} (h : s.fstate = .recv) (ht : 150 < elapsed s) (b : Byte) :
    exec (.rxb b) s = .next (answered 0x0001 (huntByte b (timedOutOf s))) := by
  have hp : s.fstate ≠ .parsing := by simp [h]
  rw [exec_rxb_of_ne_parsing hp]
  obtain ⟨hh, -⟩ | ⟨-, -, e⟩ | ⟨-, hin, -⟩ := acceptByte_cases b s hp
  · simp [h] at hh
  · rw [e, dropTimedOut_eq_timedOutOf]
  · exact absurd ht (Nat.not_lt.mpr ((timedOut_eq_false_iff s).mp hin))

/-- TICK drops a timed-out frame and does nothing else (40_framer.md R121). -/
theorem exec_tick (s : State) :
    exec .tick s = .next (answered 0x0000 (if s.fstate = .recv ∧ 150 < elapsed s then timedOutOf s else s)) := by
  simp only [← timedOut_iff]
  rfl

end Sys2Proof.Machine
end

section
/-! SUPPORT. FSTATE's edges (40_framer.md R110): the operations off the receive path keep FSTATE, and each of the others
takes one of the edges of the framer's table. -/

namespace Sys2Proof.Machine

/-- The operations the framer's table names. -/
def isFramerOp : Instr → Bool
  | .rxb _ | .tick | .parse | .rxclr | .srst => true
  | _ => false

/-- How an operation takes one state to the next, by the edges of the framer's table (40_framer.md R110). -/
inductive FramerEdge (i : Instr) (s t : State) : Prop
  /-- no edge is taken -/
  | stays (same : t.fstate = s.fstate) (noClear : i ≠ .rxclr ∧ i ≠ .srst)
      (noStart : s.fstate = .hunt → i ≠ .rxb 0xBB) (noParse : s.fstate = .parsing → i ≠ .parse)
  /-- HUNT to RECV -/
  | starts (isRxb : i = .rxb 0xBB) (src : s.fstate = .hunt) (dst : t.fstate = .recv)
  /-- RECV to PARSING -/
  | completes (b : Byte) (isRxb : i = .rxb b) (src : s.fstate = .recv) (inTime : elapsed s ≤ 150)
      (count : 8 ≤ t.rxCount ∧ t.rxCount = 10 + (t.rxBuf[6]).toNat) (dst : t.fstate = .parsing)
  /-- RECV to HUNT, the buffer full -/
  | overflows (b : Byte) (isRxb : i = .rxb b) (src : s.fstate = .recv) (inTime : elapsed s ≤ 150)
      (full : s.rxCount + 1 = 34) (dst : t.fstate = .hunt)
  /-- RECV to HUNT, too late; an RXB of the start marker is back in RECV at once -/
  | timesOut (finds : i = .tick ∨ ∃ b, b ≠ 0xBB ∧ i = .rxb b) (src : s.fstate = .recv) (late : 150 < elapsed s)
      (dst : t.fstate = .hunt)
  /-- PARSING to HUNT -/
  | parses (isParse : i = .parse) (src : s.fstate = .parsing) (dst : t.fstate = .hunt)
  /-- any state to HUNT -/
  | clears (isClear : i = .rxclr ∨ i = .srst) (dst : t.fstate = .hunt)

/-! ## Off the receive path -/

/-- The next state of an instruction, once what it does is known. -/
theorem next_inj {s t : State} (h : (.next s : Host.Outcome State Fault Refusal) = .next t) : t = s :=
  (Host.Outcome.next.inj h).symm

/-- Building a frame touches the transmit side only. -/
theorem encodeIdle_buildFrame_fstate (ptype flag : Byte) (body : List Byte) (s : State) :
    (encodeIdle (buildFrame ptype flag body) s).fstate = s.fstate := by
  obtain ⟨-, e⟩ | ⟨-, e⟩ := encodeIdle_cases (buildFrame ptype flag body) s
  · simp [e]
  · simp [e, buildFrame]

theorem execEncSetc_fstate {s t : State} (h : execEncSetc s = .next t) : t.fstate = s.fstate := by
  obtain ⟨-, e⟩ | ⟨-, -, e⟩ | ⟨-, -, e⟩ := execEncSetc_cases s <;> obtain rfl := next_inj (e.symm.trans h) <;>
    simp

theorem execTxsend_fstate {s t : State} (h : execTxsend s = .next t) : t.fstate = s.fstate := by
  obtain ⟨-, e⟩ | ⟨-, -, -, e⟩ := execTxsend_cases s <;> obtain rfl := next_inj (e.symm.trans h)
  · simp
  · simp [sendQueued]

theorem execRd_fstate {a : Byte} {s t : State} (h : execRd a s = .next t) : t.fstate = s.fstate := by
  obtain ⟨r, -, e⟩ | ⟨-, e⟩ := execRd_cases a s <;> obtain rfl := next_inj (e.symm.trans h) <;> simp

theorem execWr_fstate {a : Byte} {d : Half} {s t : State} (h : execWr a d s = .next t) : t.fstate = s.fstate := by
  obtain ⟨-, e⟩ | ⟨-, e⟩ | ⟨-, e⟩ | ⟨f, -, e⟩ | e := execWr_cases a d s <;> obtain rfl := next_inj (e.symm.trans h) <;>
    simp

/-- An operation the framer's table does not name keeps FSTATE. -/
theorem exec_fstate_of_not_framerOp {i : Instr} {s t : State} (hop : isOperation i = true)
    (hi : isFramerOp i = false) (h : exec i s = .next t) : t.fstate = s.fstate := by
  cases i with
  | nop | cmdclr | txclr =>
    obtain rfl := next_inj h
    rfl
  | encPong =>
    obtain rfl := next_inj h
    exact encodeIdle_buildFrame_fstate 0x01 0x01 pongBody s
  | encReqs | encReqb =>
    obtain rfl := next_inj h
    exact encodeIdle_buildFrame_fstate _ _ _ s
  | encSetc => exact execEncSetc_fstate h
  | txsend => exact execTxsend_fstate h
  | rd a => exact execRd_fstate h
  | wr a d => exact execWr_fstate h
  | rxb | tick | parse | rxclr | srst => cases hi
  | _ => cases hop

/-! ## On the receive path -/

/-- A hunted byte starts a frame exactly if it is the start marker. -/
theorem huntByte_fstate (b : Byte) {s : State} (h : s.fstate = .hunt) :
    (huntByte b s).fstate = if b = 0xBB then .recv else .hunt := by
  obtain ⟨u, hu, hcases⟩ := huntByte_cases b s
  have hf : u.fstate = .hunt := by
    rw [hu]
    split <;> exact h
  rw [sof_eq] at hcases
  obtain ⟨hb, e⟩ | ⟨hb, -, e⟩ | ⟨hb, -, e⟩ := hcases
  · rw [e, startFrame_eq, if_pos hb]
  · rw [e, if_neg hb]
    exact hf
  · rw [e, if_neg hb]
    exact hf

/-- RXB may start a frame in HUNT, end one in RECV, and takes no edge in PARSING. -/
theorem rxb_framerEdge {b : Byte} {s t : State} (h : exec (.rxb b) s = .next t) : FramerEdge (.rxb b) s t := by
  cases hf : s.fstate with
  | hunt =>
    obtain rfl := next_inj ((exec_rxb_of_hunt hf b).symm.trans h)
    have hdst := huntByte_fstate b hf
    by_cases hb : b = 0xBB
    · exact .starts (by rw [hb]) hf (by rwa [if_pos hb] at hdst)
    · exact .stays (by rw [hf]; rwa [if_neg hb] at hdst) (by simp) (fun _ e => hb (Instr.rxb.inj e)) (by simp)
  | recv =>
    by_cases ht : 150 < elapsed s
    · obtain rfl := next_inj ((exec_rxb_of_timedOut hf ht b).symm.trans h)
      have hdst := huntByte_fstate b (s := timedOutOf s) rfl
      by_cases hb : b = 0xBB
      · exact .stays (by rw [hf]; rwa [if_pos hb] at hdst) (by simp) (by simp [hf]) (by simp)
      · exact .timesOut (.inr ⟨b, hb, rfl⟩) hf ht (by rwa [if_neg hb] at hdst)
    · have hin : elapsed s ≤ 150 := Nat.not_lt.mp ht
      obtain rfl := next_inj ((exec_rxb_of_recv hf hin b).symm.trans h)
      obtain ⟨hdone, e⟩ | ⟨-, hfull, e⟩ | ⟨-, -, e⟩ := recvByte_cases b s <;> rw [e]
      · obtain ⟨h8, hn⟩ := (frameComplete_iff _).mp hdone
        refine .completes b rfl hf hin ⟨h8, hn.trans ?_⟩ rfl
        exact Nat.add_right_comm 8 _ 2
      · exact .overflows b rfl hf hin hfull rfl
      · exact .stays rfl (by simp) (by simp [hf]) (by simp)
  | parsing =>
    obtain rfl := next_inj ((exec_rxb_of_parsing hf b).symm.trans h)
    exact .stays rfl (by simp) (by simp [hf]) (by simp)

/-- TICK may time a frame out. -/
theorem tick_framerEdge {s t : State} (h : exec .tick s = .next t) : FramerEdge .tick s t := by
  obtain rfl := next_inj ((exec_tick s).symm.trans h)
  by_cases hc : s.fstate = .recv ∧ 150 < elapsed s
  · rw [if_pos hc]
    obtain ⟨hf, hlate⟩ := hc
    exact .timesOut (.inl rfl) hf hlate rfl
  · rw [if_neg hc]
    exact .stays rfl (by simp) (by simp) (by simp)

/-- Every frame class ends its PARSE in HUNT (42_decode.md R160). -/
theorem dispatchFrame_fstate {f : Frame} {s t : State} (h : dispatchFrame f s = .next t) : t.fstate = .hunt := by
  obtain e | ⟨-, e⟩ | ⟨-, e⟩ | ⟨c, -, e⟩ := dispatchFrame_next f s <;> obtain rfl := next_inj (e.symm.trans h) <;> rfl

/-- PARSE leaves PARSING, and is not ready elsewhere. -/
theorem parse_framerEdge {s t : State} (h : exec .parse s = .next t) : FramerEdge .parse s t := by
  obtain ⟨hf, e⟩ | ⟨hf, -, e⟩ | ⟨hf, -, e⟩ := execParse_cases s
  · obtain rfl := next_inj (e.symm.trans h)
    exact .stays rfl (by simp) (by simp) (absurd · hf)
  · obtain rfl := next_inj (e.symm.trans h)
    exact .parses rfl hf rfl
  · exact .parses rfl hf (dispatchFrame_fstate (e.symm.trans h))

/-- Every operation takes an edge of the framer's table, or none. -/
theorem exec_framerEdge {i : Instr} {s t : State} (hop : isOperation i = true) (h : exec i s = .next t) :
    FramerEdge i s t := by
  by_cases hi : isFramerOp i = false
  · have hsame := exec_fstate_of_not_framerOp hop hi h
    have hne (j : Instr) (hj : isFramerOp j = true) : i ≠ j := by
      rintro rfl
      simp [hi] at hj
    exact .stays hsame ⟨hne _ rfl, hne _ rfl⟩ (fun _ => hne _ rfl) (fun _ => hne _ rfl)
  · cases i with
    | rxb b => exact rxb_framerEdge h
    | tick => exact tick_framerEdge h
    | parse => exact parse_framerEdge h
    | rxclr =>
      obtain rfl := next_inj h
      exact .clears (.inl rfl) rfl
    | srst =>
      obtain rfl := next_inj h
      exact .clears (.inr rfl) rfl
    | _ => exact absurd rfl hi

end Sys2Proof.Machine
end

section
/-! PROOFS. What RXB, TICK and RXCLR do, and the framer's edges: O13 to O19. -/

namespace Sys2Proof.Proofs.Framer

open Sys2Proof.Machine

/-- Settles O13: RXB's one guard is PARSING. -/
theorem rxbIsRefusedWhileParsing : Obligations.RxbIsRefusedWhileParsing :=
  fun b _ h => exec_rxb_of_parsing h b

/-- Settles O14: the three outcomes of a hunted byte, each written out. -/
theorem huntByteStartsAFrameOrIsNoise : Obligations.HuntByteStartsAFrameOrIsNoise := by
  intro b s h u
  rw [exec_rxb_of_hunt h]
  obtain ⟨v, hv, hcases⟩ := huntByte_cases b s
  obtain rfl : v = u := hv
  rw [sof_eq] at hcases
  obtain ⟨hb, e⟩ | ⟨hb, hfull, e⟩ | ⟨hb, hroom, e⟩ := hcases
  · have hnow : u.now = s.now := by simp only [u]; split <;> rfl
    rw [e, startFrame_eq, hnow, if_pos hb]
  · rw [e, if_neg hb, if_pos hfull]
    rfl
  · rw [e, if_neg hb, if_neg hroom]
    rfl

/-- Settles O15: the three outcomes of a frame byte, completion first. -/
theorem frameByteIsStoredAndMayComplete : Obligations.FrameByteIsStoredAndMayComplete := by
  intro b s h ht buf n
  rw [exec_rxb_of_recv h ht]
  have hdone : frameComplete (appendRx b s) = true ↔ 8 ≤ n ∧ n = 8 + (buf[6]).toNat + 2 :=
    frameComplete_iff _
  obtain ⟨hc, e⟩ | ⟨hc, hfull, e⟩ | ⟨hc, hroom, e⟩ := recvByte_cases b s
  · rw [e, if_pos (hdone.mp hc)]
    rfl
  · rw [e, if_neg (mt hdone.mpr (by simp [hc])), if_pos hfull]
    rfl
  · rw [e, if_neg (mt hdone.mpr (by simp [hc])), if_neg hroom]
    rfl

/-- Settles O16: the drop leaves an empty receive side in HUNT, where the byte is the first one hunted. -/
theorem timedOutByteIsHandledInHunt : Obligations.TimedOutByteIsHandledInHunt := by
  intro b s h ht
  refine ⟨?_, ?_, ?_⟩
  · rw [exec_rxb_of_timedOut h ht, exec_rxb_of_hunt rfl]
  · refine ⟨_, exec_rxb_of_timedOut h ht b, rfl, ?_⟩
    obtain ⟨v, hv, hcases⟩ := huntByte_cases b (timedOutOf s)
    obtain rfl : v = timedOutOf s := hv
    rw [sof_eq] at hcases
    obtain ⟨rfl, e⟩ | ⟨-, hfull, -⟩ | ⟨hb, -, e⟩ := hcases
    · rw [e, startFrame_eq]
      exact ⟨rfl, rfl, rfl, rfl⟩
    · exact absurd hfull (show ¬ 0 + 1 = 34 by decide)
    · rw [e, if_neg hb]
      exact ⟨rfl, rfl, rfl, rfl⟩
  · rw [exec_tick, if_pos ⟨h, ht⟩]

/-- Settles O17: TICK is its timeout check, and 0x20000000 is the one legal word of OPC 2. -/
theorem tickDropsOnlyATimedOutFrame : Obligations.TickDropsOnlyATimedOutFrame :=
  ⟨rfl, fun s => ⟨exec_tick s, onlyLegalWord_of_plainOp (i := .tick) (by decide) s⟩⟩

/-- Settles O18: RXCLR is the drop without an event, and 0xA0000000 is the one legal word of OPC 0xA. -/
theorem rxclrDiscardsTheReceiveSide : Obligations.RxclrDiscardsTheReceiveSide :=
  ⟨rfl, fun s => ⟨rfl, onlyLegalWord_of_plainOp (i := .rxclr) (by decide) s⟩⟩

/-- Settles O19: each edge leaves one framer state, so each clause keeps the edges of its own. -/
theorem framerMovesOnlyAlongItsEdges : Obligations.FramerMovesOnlyAlongItsEdges := by
  intro i s t hop h
  refine ⟨fun hs => ?_, fun hs => ?_, fun hs => ?_⟩
  · cases exec_framerEdge hop h with
    | stays same noClear noStart noParse => exact .inl ⟨same.trans hs, noStart hs⟩
    | starts isRxb src dst => exact .inr ⟨dst, isRxb⟩
    | clears isClear dst => exact .inl ⟨dst, by rcases isClear with rfl | rfl <;> simp⟩
    | completes _ _ src | overflows _ _ src | timesOut _ src | parses _ src => cases hs.symm.trans src
  · cases exec_framerEdge hop h with
    | stays same noClear noStart noParse => exact .inl ⟨same.trans hs, noClear⟩
    | completes b isRxb src inTime count dst => exact .inr (.inl ⟨dst, ⟨b, isRxb⟩, inTime, count⟩)
    | overflows b isRxb src inTime full dst => exact .inr (.inr ⟨dst, .inr (.inr (.inr ⟨⟨b, isRxb⟩, inTime, full⟩))⟩)
    | timesOut finds src late dst => exact .inr (.inr ⟨dst, .inr (.inr (.inl ⟨finds, late⟩))⟩)
    | clears isClear dst => exact .inr (.inr ⟨dst, isClear.imp_right .inl⟩)
    | starts _ src | parses _ src => cases hs.symm.trans src
  · cases exec_framerEdge hop h with
    | stays same noClear noStart noParse => exact .inl ⟨same.trans hs, noParse hs, noClear⟩
    | parses isParse src dst => exact .inr ⟨dst, .inl isParse⟩
    | clears isClear dst => exact .inr ⟨dst, .inr isClear⟩
    | starts _ src | completes _ _ src | overflows _ _ src | timesOut _ src => cases hs.symm.trans src

end Sys2Proof.Proofs.Framer
end

section
/-! SUPPORT. What Verify compares: the two bytes after the content, the header and body that the length byte spans
(41_checksum.md R150, R151). -/

namespace Sys2Proof.Machine

open Sys2Proof.Laws.EncodeShape

/-- The length byte stands in the header, so it gives the body's length whatever follows the header
(30_encoding.md R93). -/
theorem bodyLen_header_append {f : Frame} (h : f.fits = true) (rest : List Byte) :
    bodyLen (f.header ++ rest) = f.body.length :=
  bodyLen_bytes_append h []

/-- Verify compares the placed checksum of the content with the two bytes that follow it (41_checksum.md R150). -/
theorem csumMatches_content_append_iff {content : List Byte} {c0 c1 : Byte} {rest : List Byte}
    (hlen : content.length = Config.hdrLen + bodyLen (content ++ c0 :: c1 :: rest)) :
    csumMatches (content ++ c0 :: c1 :: rest) = true ↔ placeCsum (checksum content) = [c0, c1] := by
  rw [csumMatches, ← hlen, List.take_left, List.getD_append_right _ _ _ _ le_rfl,
    List.getD_append_right _ _ _ _ (Nat.le_add_right _ 1), Nat.sub_self, Nat.add_sub_cancel_left, beq_iff_eq]
  rfl

/-- A frame's header and body followed by two bytes pass Verify exactly if those are its placed checksum. -/
theorem csumMatches_frame_iff {f : Frame} (h : f.fits = true) (c0 c1 : Byte) :
    csumMatches (f.header ++ f.body ++ [c0, c1]) = true ↔
      placeCsum (checksum (f.header ++ f.body)) = [c0, c1] := by
  refine csumMatches_content_append_iff ?_
  rw [List.append_assoc, bodyLen_header_append h, List.length_append]
  rfl

end Sys2Proof.Machine
end

section
/-! PROOFS. The checksum's comparison: O24. -/

namespace Sys2Proof.Proofs.Checksum

open Sys2Proof.Machine

/-- Settles O24: Verify asks for the placed checksum's two bytes in order, and a pair equals its exchange only if its
two bytes are equal. -/
theorem bothChecksumBytesMustMatch : Obligations.BothChecksumBytesMustMatch := by
  intro f c0 c1 h
  refine ⟨(csumMatches_frame_iff h c0 c1).trans eq_comm, fun hplaced => ?_⟩
  rw [csumMatches_frame_iff h c1 c0, hplaced]
  constructor
  · intro hpair
    exact (List.cons.inj hpair).1
  · rintro rfl
    rfl

end Sys2Proof.Proofs.Checksum
end

section
/-! SUPPORT. The receive side of a state as one value: the operations off the receive path keep it, in HUNT all but RXB,
RXCLR and SRST keep it through any run, and PARSE of a frame that passes Verify retains it (42_decode.md R160, R168). -/

namespace Sys2Proof.Machine

/-- The items of the receive side that a reachable state constrains: FSTATE, RXBUF, RX_COUNT, RETAINED and NOISE_LAST
(10_state.md R22 to R28). -/
structure RxSide where
  fstate    : FState
  rxBuf     : Buf
  rxCount   : Nat
  retained  : Bool
  noiseLast : Nat

/-- The receive side of a state. -/
def State.rxSide (s : State) : RxSide :=
  ⟨s.fstate, s.rxBuf, s.rxCount, s.retained, s.noiseLast⟩

/-! ## Updates off the receive side -/

@[simp] theorem setEvent_rxSide (e : Event) (s : State) : (setEvent e s).rxSide = s.rxSide := rfl

@[simp] theorem finish_rxSide (r : Half) (s : State) : (finish r s).rxSide = s.rxSide := rfl

@[simp] theorem raiseOpErr_rxSide (c : OpErrCause) (s : State) : (raiseOpErr c s).rxSide = s.rxSide := rfl

@[simp] theorem loadTx_rxSide (bytes : List Byte) (s : State) : (loadTx bytes s).rxSide = s.rxSide := rfl

theorem setEventIf_rxSide (c : Bool) (e : Event) (s : State) : (setEventIf c e s).rxSide = s.rxSide := by
  cases c <;> rfl

/-- The answer to a ping touches the transmit side and the events only (42_decode.md R162). -/
theorem answerPing_rxSide (s : State) : (answerPing s).rxSide = s.rxSide := by
  obtain ⟨-, e⟩ | ⟨-, e⟩ := answerPing_cases s <;> simp [e]

theorem decodeSmall_rxSide (b : List Byte) (s : State) : (decodeSmall b s).rxSide = s.rxSide :=
  setEventIf_rxSide _ _ _

theorem decodeBig_rxSide (b : List Byte) (s : State) : (decodeBig b s).rxSide = s.rxSide :=
  setEventIf_rxSide _ _ _

/-- Building a frame touches the transmit side only, and so does its refusal. -/
theorem encodeIdle_buildFrame_rxSide (ptype flag : Byte) (body : List Byte) (s : State) :
    (encodeIdle (buildFrame ptype flag body) s).rxSide = s.rxSide := by
  obtain ⟨-, e⟩ | ⟨-, e⟩ := encodeIdle_cases (buildFrame ptype flag body) s <;> simp [e, buildFrame]

/-- An operation the framer's table does not name gives a next state, with the same receive side. -/
theorem exec_rxSide_of_not_framerOp {i : Instr} (hop : isOperation i = true) (hi : isFramerOp i = false) (s : State) :
    ∃ t, exec i s = .next t ∧ t.rxSide = s.rxSide := by
  cases i with
  | nop | cmdclr | txclr => exact ⟨_, rfl, rfl⟩
  | encPong => exact ⟨_, rfl, encodeIdle_buildFrame_rxSide 0x01 0x01 pongBody s⟩
  | encReqs | encReqb => exact ⟨_, rfl, encodeIdle_buildFrame_rxSide _ _ _ s⟩
  | encSetc => obtain ⟨-, e⟩ | ⟨-, -, e⟩ | ⟨-, -, e⟩ := execEncSetc_cases s <;> exact ⟨_, e, by simp⟩
  | txsend => obtain ⟨-, e⟩ | ⟨-, -, -, e⟩ := execTxsend_cases s <;> exact ⟨_, e, rfl⟩
  | rd a => obtain ⟨r, -, e⟩ | ⟨-, e⟩ := execRd_cases a s <;> exact ⟨_, e, rfl⟩
  | wr a d =>
    obtain ⟨-, e⟩ | ⟨-, e⟩ | ⟨-, e⟩ | ⟨f, -, e⟩ | e := execWr_cases a d s <;> exact ⟨_, e, rfl⟩
  | rxb | tick | parse | rxclr | srst => cases hi
  | _ => cases hop

/-! ## HUNT without a byte -/

/-- The operations that end a retained frame (42_decode.md R168). -/
def discardsRetained (i : Instr) : Prop :=
  (∃ b, i = .rxb b) ∨ i = .rxclr ∨ i = .srst

/-- In HUNT, an operation that does not end a retained frame keeps the receive side: TICK has no frame to time out and
PARSE has none to parse. -/
theorem exec_rxSide_of_hunt {i : Instr} (hop : isOperation i = true) (hi : ¬ discardsRetained i) {s : State}
    (h : s.fstate = .hunt) : ∃ t, exec i s = .next t ∧ t.rxSide = s.rxSide := by
  by_cases hframer : isFramerOp i = false
  · exact exec_rxSide_of_not_framerOp hop hframer s
  · cases i with
    | tick =>
      refine ⟨_, exec_tick s, ?_⟩
      rw [if_neg (by simp [h])]
      rfl
    | parse =>
      obtain ⟨-, e⟩ | ⟨hp, -⟩ | ⟨hp, -⟩ := execParse_cases s
      · exact ⟨_, e, rfl⟩
      · cases h.symm.trans hp
      · cases h.symm.trans hp
    | rxb b => exact absurd (.inl ⟨b, rfl⟩) hi
    | rxclr => exact absurd (.inr (.inl rfl)) hi
    | srst => exact absurd (.inr (.inr rfl)) hi
    | _ => exact absurd rfl hframer

/-- A run goes on from the state its first operation gives. -/
theorem runOps_cons_of_next {i : Instr} {now : Word} {s t : State} (h : exec i { s with now := now } = .next t)
    (rest : List (Instr × Word)) : runOps ((i, now) :: rest) s = runOps rest t := by
  simp only [runOps, h]

/-- From HUNT, a run without the operations that end a retained frame keeps the receive side. -/
theorem runOps_rxSide_of_hunt {ops : List (Instr × Word)}
    (hops : ∀ o ∈ ops, isOperation o.1 = true ∧ ¬ discardsRetained o.1) {s : State} (h : s.fstate = .hunt) :
    ∃ u, runOps ops s = .next u ∧ u.rxSide = s.rxSide := by
  induction ops generalizing s with
  | nil => exact ⟨s, rfl, rfl⟩
  | cons o rest ih =>
    obtain ⟨⟨hop, hi⟩, hrest⟩ := List.forall_mem_cons.mp hops
    obtain ⟨t, ht, hside⟩ := exec_rxSide_of_hunt hop hi (s := { s with now := o.2 }) h
    obtain ⟨u, hu, hsame⟩ := ih hrest ((congrArg RxSide.fstate hside).trans h)
    exact ⟨u, (runOps_cons_of_next ht rest).trans hu, hsame.trans hside⟩

/-! ## Retaining and discarding a frame -/

/-- The end of a PARSE retains the frame its class left in RXBUF and goes to HUNT (42_decode.md R160, R168). -/
theorem endParse_rxSide (c : ParseCode) (s : State) :
    (endParse c s).rxSide = { s.rxSide with fstate := .hunt, retained := true } := by
  have h := setEventIf_rxSide c.isIgnored .ignored (setParseResult c s)
  exact congrArg (fun r : RxSide => { r with fstate := .hunt, retained := true }) h

/-- A class whose effect leaves the receive side alone retains the frame. -/
theorem parsed_rxSide (c : ParseCode) {effect : State → State} (h : ∀ u : State, (effect u).rxSide = u.rxSide)
    (s : State) : (parsed c effect s).rxSide = { s.rxSide with fstate := .hunt, retained := true } := by
  rw [parsed, endParse_rxSide, h, setEvent_rxSide]

/-- No class's effect touches the receive side, so PARSE of a frame that passes Verify retains it as it is. -/
theorem dispatchFrame_rxSide (f : Frame) (s : State) :
    ∃ t, dispatchFrame f s = .next t ∧ t.rxSide = { s.rxSide with fstate := .hunt, retained := true } := by
  obtain e | ⟨-, e⟩ | ⟨-, e⟩ | ⟨c, -, e⟩ := dispatchFrame_next f s
  · exact ⟨_, e, parsed_rxSide .ping answerPing_rxSide s⟩
  · exact ⟨_, e, parsed_rxSide .small (decodeSmall_rxSide f.body) s⟩
  · exact ⟨_, e, parsed_rxSide .big (decodeBig_rxSide f.body) s⟩
  · exact ⟨_, e, parsed_rxSide c (fun _ => rfl) s⟩

/-- PARSE of a complete frame that passes Verify retains it (42_decode.md R168). -/
theorem exec_parse_rxSide {s : State} (hp : s.fstate = .parsing) (hc : csumMatches s.rxBuf.toList = true) :
    ∃ t, exec .parse s = .next t ∧ t.rxSide = { s.rxSide with fstate := .hunt, retained := true } := by
  obtain ⟨hn, -⟩ | ⟨-, hbad, -⟩ | ⟨-, -, e⟩ := execParse_cases s
  · exact absurd hp hn
  · cases hc.symm.trans hbad
  · obtain ⟨t, ht, hside⟩ := dispatchFrame_rxSide (rxFrame s) s
    exact ⟨t, e.trans ht, hside⟩

/-- PARSE drops a frame that fails Verify (41_checksum.md R150). -/
theorem exec_parse_of_badChecksum {s : State} (hp : s.fstate = .parsing) (hc : csumMatches s.rxBuf.toList = false) :
    exec .parse s = .next (dropBadChecksum s) := by
  obtain ⟨hn, -⟩ | ⟨-, -, e⟩ | ⟨-, hok, -⟩ := execParse_cases s
  · exact absurd hp hn
  · exact e
  · cases hok.symm.trans hc

/-- A hunted byte leaves no frame retained (40_framer.md R115). -/
theorem huntByte_retained (b : Byte) (s : State) : (huntByte b s).retained = false := by
  obtain ⟨u, hu, hcases⟩ := huntByte_cases b s
  have hfree : u.retained = false := by
    rw [hu]
    split_ifs with hr
    · rfl
    · exact Bool.eq_false_iff.mpr hr
  obtain ⟨-, e⟩ | ⟨-, -, e⟩ | ⟨-, -, e⟩ := hcases
  · rw [e, startFrame_eq]
  · rw [e, resetRx_retained]
  · rw [e, appendRx_retained, hfree]

/-- RXB, RXCLR and SRST each end a retained frame (42_decode.md R168). -/
theorem exec_retained_of_discards {i : Instr} (hi : discardsRetained i) {s : State} (h : s.fstate = .hunt) :
    ∃ t, exec i s = .next t ∧ t.retained = false := by
  obtain ⟨b, rfl⟩ | rfl | rfl := hi
  · exact ⟨_, exec_rxb_of_hunt h b, huntByte_retained b s⟩
  · exact ⟨_, rfl, rfl⟩
  · exact ⟨_, rfl, rfl⟩

end Sys2Proof.Machine
end

section
/-! PROOFS. The retained frame: O28. -/

namespace Sys2Proof.Proofs.Retained

open Sys2Proof.Machine

/-- Settles O28: PARSE retains the frame and goes to HUNT, where a run that does not discard it keeps the whole receive
side, so its last state is still one in which RXB, RXCLR and SRST discard it. -/
theorem retainedFrameStaysUntilDiscarded : Obligations.RetainedFrameStaysUntilDiscarded := by
  rintro s ⟨hshape, -, -⟩ hp
  refine ⟨fun hc ops hops => ?_, fun hc => ⟨_, exec_parse_of_badChecksum hp hc, rfl⟩⟩
  have hcount : s.rxCount = 10 + (s.rxBuf[6]).toNat := by
    rw [rxShape, hp] at hshape
    obtain ⟨-, -, -, hcount⟩ := hshape
    exact hcount
  have hkeep : ∀ o ∈ ops, isOperation o.1 = true ∧ ¬ discardsRetained o.1 := by
    intro o ho
    obtain ⟨hop, hrxb, hrxclr, hsrst⟩ := hops o ho
    exact ⟨hop, by rintro (⟨b, e⟩ | e | e); exacts [hrxb b e, hrxclr e, hsrst e]⟩
  obtain ⟨t, ht, hparsed⟩ := exec_parse_rxSide hp hc
  obtain ⟨u, hu, hrun⟩ := runOps_rxSide_of_hunt hkeep (congrArg RxSide.fstate hparsed)
  have hside := hrun.trans hparsed
  exact ⟨t, u, ht, hu, congrArg RxSide.retained hside, congrArg RxSide.rxBuf hside,
    (congrArg RxSide.rxCount hside).trans hcount,
    fun i hi => exec_retained_of_discards hi (congrArg RxSide.fstate hside)⟩

end Sys2Proof.Proofs.Retained
end

section
/-! SUPPORT. Puts into a body: two of disjoint fields commute; and the raw-field overrides as a fold of puts, what it
keeps and what it gives (42_decode.md R171, R172; 43_encode_transmit.md R196). -/

namespace Sys2Proof.CmdField

/-! ## The fields that have an override -/

theorem mem_all (F : CmdField) : F ∈ CmdField.all := by
  cases F <;> decide

/-- Two override registers override two fields. -/
theorem raw_injective : Function.Injective CmdField.raw := fun F G h =>
  List.inj_on_of_nodup_map (l := CmdField.all) (by decide) F.mem_all G.mem_all h

/-- HEALTH_STATUS has no override register (10_state.md R43). -/
theorem raw_ne_healthStatus (F : CmdField) : F.raw ≠ .healthStatus := by
  cases F <;> decide

end Sys2Proof.CmdField

namespace Sys2Proof.Machine

/-! ## Puts -/

/-- Bodies of the same length with the same bits are the same. -/
theorem body_ext {b c : List Byte} (hlen : b.length = c.length)
    (h : ∀ j k, k < 8 → (b.getD j 0x00).getLsbD k = (c.getD j 0x00).getLsbD k) : b = c := by
  refine List.ext_getElem hlen fun j hb hc => BitVec.eq_of_getLsbD_eq fun k hk => ?_
  rw [← List.getD_eq_getElem _ 0x00 hb, ← List.getD_eq_getElem _ 0x00 hc]
  exact h j k hk

/-- A put past the end of the body writes nothing. -/
theorem putField_of_length_le {b : List Byte} {p : FieldPos} (h : b.length ≤ p.byte) (v : Byte) :
    putField b p v = b :=
  List.set_eq_of_length_le h

/-- Puts of fields that share no bit commute (42_decode.md R171, R172). -/
theorem putField_comm {p q : FieldPos} (hp : p.lo + p.width ≤ 8) (hq : q.lo + q.width ≤ 8)
    (hd : FieldPos.disjoint p q = true) (b : List Byte) (v w : Byte) :
    putField (putField b p v) q w = putField (putField b q w) p v := by
  by_cases hpb : p.byte < b.length
  · by_cases hqb : q.byte < b.length
    · refine body_ext (by simp) fun j k hk => ?_
      simp only [FieldPos.disjoint, decide_eq_true_eq] at hd
      rw [putField_getLsbD _ q _ _ _ (by simpa) hq hk, putField_getLsbD _ p _ _ _ hpb hp hk,
        putField_getLsbD _ p _ _ _ (by simpa) hp hk, putField_getLsbD _ q _ _ _ hqb hq hk]
      split_ifs
      · omega
      all_goals rfl
    · rw [putField_of_length_le (p := q) (by simpa using hqb), putField_of_length_le (p := q) (by simpa using hqb)]
  · rw [putField_of_length_le (p := p) (by simpa using hpb), putField_of_length_le (p := p) (by simpa using hpb)]

/-- A get reads one byte of the body. -/
theorem getField_congr {b c : List Byte} {p : FieldPos} (h : b.getD p.byte 0x00 = c.getD p.byte 0x00) :
    getField b p = getField c p := by
  rw [getField, h, getField]

/-- A put of one raw field leaves what a get of another gives. -/
theorem getField_putField_layout {b : List Byte} (hb : b.length = 15) {f g : RawField} (h : g ≠ f) (v : Byte) :
    getField (putField b (Config.layout g) v) (Config.layout f) = getField b (Config.layout f) := by
  obtain ⟨-, -, -, -, hf⟩ := Config.layout_bounds f
  obtain ⟨-, hbyte, -, -, hg⟩ := Config.layout_bounds g
  exact getField_putField_disjoint b _ _ v (by omega) hg hf (Config.layout_disjoint h)

/-! ## The overrides -/

theorem applyOverride_of_valid {r : CmdRaw} {F : CmdField} (h : (r.get F).valid = true) (b : List Byte) :
    applyOverride r b F = putField b (Config.layout F.raw) (r.get F).value :=
  if_pos h

theorem applyOverride_of_untouched {r : CmdRaw} {F : CmdField} (h : (r.get F).valid = false) (b : List Byte) :
    applyOverride r b F = b := by
  rw [applyOverride, h, if_neg Bool.noConfusion]

@[simp] theorem applyOverride_length (r : CmdRaw) (b : List Byte) (F : CmdField) :
    (applyOverride r b F).length = b.length := by
  rw [applyOverride]
  split_ifs <;> simp

/-- Two overrides commute: an untouched one does nothing, and two fields share no bit. -/
theorem applyOverride_comm (r : CmdRaw) (b : List Byte) (F G : CmdField) :
    applyOverride r (applyOverride r b F) G = applyOverride r (applyOverride r b G) F := by
  obtain rfl | hne := eq_or_ne F G
  · rfl
  cases hF : (r.get F).valid with
  | false => rw [applyOverride_of_untouched hF, applyOverride_of_untouched hF]
  | true =>
    cases hG : (r.get G).valid with
    | false => rw [applyOverride_of_untouched hG, applyOverride_of_untouched hG]
    | true =>
      obtain ⟨-, -, -, -, hwF⟩ := Config.layout_bounds F.raw
      obtain ⟨-, -, -, -, hwG⟩ := Config.layout_bounds G.raw
      simp only [applyOverride_of_valid hF, applyOverride_of_valid hG]
      exact putField_comm hwF hwG (Config.layout_disjoint (CmdField.raw_injective.ne hne)) b _ _

/-- The overrides give the same body in any order (43_encode_transmit.md R196). -/
theorem foldl_applyOverride_of_perm (r : CmdRaw) (b : List Byte) {order : List CmdField}
    (h : order.Perm CmdField.all) : order.foldl (applyOverride r) b = applyOverrides r b :=
  h.foldl_eq' (fun F _ G _ c => applyOverride_comm r c F G) b

@[simp] theorem foldl_applyOverride_length (r : CmdRaw) (order : List CmdField) (b : List Byte) :
    (order.foldl (applyOverride r) b).length = b.length := by
  induction order generalizing b with
  | nil => rfl
  | cons F rest ih => rw [List.foldl_cons, ih, applyOverride_length]

@[simp] theorem applyOverrides_length (r : CmdRaw) (b : List Byte) : (applyOverrides r b).length = b.length :=
  foldl_applyOverride_length r _ b

/-- What each override that is set keeps of a body, all of them together keep. -/
theorem applyOverrides_keeps {α : Type} {g : List Byte → α} {r : CmdRaw}
    (h : ∀ F : CmdField, (r.get F).valid = true → ∀ b : List Byte, b.length = 15 → ∀ v,
      g (putField b (Config.layout F.raw) v) = g b)
    {b : List Byte} (hb : b.length = 15) : g (applyOverrides r b) = g b := by
  rw [applyOverrides]
  induction CmdField.all generalizing b with
  | nil => rfl
  | cons F rest ih =>
    rw [List.foldl_cons, ih (by rw [applyOverride_length, hb])]
    cases hF : (r.get F).valid with
    | false => rw [applyOverride_of_untouched hF]
    | true => rw [applyOverride_of_valid hF, h F hF b hb]

/-- A raw field with no override set keeps its bits (43_encode_transmit.md R196). -/
theorem getField_applyOverrides_untouched {r : CmdRaw} {f : RawField}
    (h : ∀ F : CmdField, (r.get F).valid = true → F.raw ≠ f) {b : List Byte} (hb : b.length = 15) :
    getField (applyOverrides r b) (Config.layout f) = getField b (Config.layout f) :=
  applyOverrides_keeps (g := fun c => getField c (Config.layout f))
    (fun F hF _ hc v => getField_putField_layout hc (h F hF) v) hb

/-- A field whose override is not VALID keeps its bits. -/
theorem getField_applyOverrides_of_untouched {r : CmdRaw} {F : CmdField} (h : (r.get F).valid = false)
    {b : List Byte} (hb : b.length = 15) :
    getField (applyOverrides r b) (Config.layout F.raw) = getField b (Config.layout F.raw) := by
  refine getField_applyOverrides_untouched (fun G hG e => ?_) hb
  rw [CmdField.raw_injective e, h] at hG
  cases hG

/-- HEALTH_STATUS has no override and keeps its bits. -/
theorem getField_applyOverrides_healthStatus (r : CmdRaw) {b : List Byte} (hb : b.length = 15) :
    getField (applyOverrides r b) (Config.layout .healthStatus) = getField b (Config.layout .healthStatus) :=
  getField_applyOverrides_untouched (fun F _ => F.raw_ne_healthStatus) hb

/-- An overridden field holds the override cut to its width: the order that takes this override last shows it. -/
theorem getField_applyOverrides_of_valid {r : CmdRaw} {F : CmdField} (h : (r.get F).valid = true)
    {b : List Byte} (hb : b.length = 15) :
    getField (applyOverrides r b) (Config.layout F.raw) = (r.get F).value &&& fieldOnes (Config.layout F.raw) := by
  have hlast : (CmdField.all.erase F ++ [F]).Perm CmdField.all :=
    (List.perm_append_singleton F _).trans (List.perm_cons_erase F.mem_all).symm
  obtain ⟨-, hbyte, -, -, hw⟩ := Config.layout_bounds F.raw
  rw [← foldl_applyOverride_of_perm r b hlast, List.foldl_append, List.foldl_cons, List.foldl_nil,
    applyOverride_of_valid h]
  exact getField_putField_same _ _ _ (by rw [foldl_applyOverride_length]; omega) hw

end Sys2Proof.Machine
end

section
/-! SUPPORT. The set-params body: the base from LAST_SMALL, the target temperature, and what the whole body gives of
each field, of the two code bytes and of the bits of no field (43_encode_transmit.md R195 to R197). -/

namespace Sys2Proof.Machine

/-! ## The base -/

@[simp] theorem setcBase_length (s : State) : (setcBase s).length = 15 := by
  simp [setcBase]

/-- Behind the two code bytes stands LAST_SMALL (43_encode_transmit.md R195). -/
theorem setcBase_getD (s : State) {j : Nat} (h : j < 13) : (setcBase s).getD (j + 2) 0x00 = s.lastSmall[j] := by
  show s.lastSmall.toList.getD j 0x00 = s.lastSmall[j]
  rw [List.getD_eq_getElem _ _ (by simpa using h), Vector.getElem_toList]

/-- The base and the body LAST_SMALL was decoded from hold the same raw fields: no field lies in the code bytes. -/
theorem getField_setcBase (s : State) (f : RawField) :
    getField (setcBase s) (Config.layout f) = getField (lastBody s) (Config.layout f) := by
  obtain ⟨hbyte, -⟩ := Config.layout_bounds f
  obtain ⟨j, hj⟩ := Nat.exists_eq_add_of_le' hbyte
  refine getField_congr ?_
  rw [hj]
  rfl

/-! ## The target temperature -/

theorem getField_ttInt_toNat (b : List Byte) : (getField b Config.ttInt).toNat = (b.getD 2 0x00).toNat / 8 := by
  rw [getField_toNat _ _ (by decide)]
  exact Nat.mod_eq_of_lt (by simp only [Config.ttInt]; omega)

theorem getField_ttHalf_toNat (b : List Byte) : (getField b Config.ttHalf).toNat = (b.getD 5 0x00).toNat / 128 := by
  rw [getField_toNat _ _ (by decide)]
  exact Nat.mod_eq_of_lt (by simp only [Config.ttHalf]; omega)

@[simp] theorem applyTarget_length (t : Half) (b : List Byte) : (applyTarget t b).length = b.length := by
  rw [applyTarget]
  split_ifs <;> simp [putTarget]

/-- What a put of each part of the target temperature keeps of a body, the target temperature keeps. -/
theorem applyTarget_keeps {α : Type} {g : List Byte → α}
    (hint : ∀ b : List Byte, b.length = 15 → ∀ v, g (putField b Config.ttInt v) = g b)
    (hhalf : ∀ b : List Byte, b.length = 15 → ∀ v, g (putField b Config.ttHalf v) = g b)
    (t : Half) {b : List Byte} (hb : b.length = 15) : g (applyTarget t b) = g b := by
  rw [applyTarget]
  split_ifs
  · rw [putTarget, hhalf _ (by rw [putField_length, hb]), hint b hb]
  · rfl

/-- The target temperature leaves every raw field. -/
theorem getField_applyTarget (t : Half) (f : RawField) {b : List Byte} (hb : b.length = 15) :
    getField (applyTarget t b) (Config.layout f) = getField b (Config.layout f) := by
  obtain ⟨-, -, -, -, hw⟩ := Config.layout_bounds f
  refine applyTarget_keeps (g := fun c => getField c (Config.layout f)) (fun c hc v => ?_) (fun c hc v => ?_) t hb
  · exact getField_putField_disjoint c _ _ v (by rw [hc]; decide) (by decide) hw (Config.layout_disjoint_ttInt f)
  · exact getField_putField_disjoint c _ _ v (by rw [hc]; decide) (by decide) hw (Config.layout_disjoint_ttHalf f)

/-- The clamped request as a number (43_encode_transmit.md R197). -/
theorem clampedTenths_eq (t : Half) : clampedTenths t = min (max (t.toNat % 32768) 160) 320 := by
  rw [clampedTenths, BitVec.extractLsb'_toNat, Nat.shiftRight_zero]
  rfl

/-- The integer part put for a temperature that has one of 5 bits. -/
theorem putTarget_ttInt {t : Nat} (h : t / 10 - 8 < 32) {b : List Byte} (hb : b.length = 15) :
    (getField (putTarget t b) Config.ttInt).toNat = t / 10 - 8 := by
  rw [putTarget, getField_putField_disjoint _ _ _ _ (by rw [putField_length, hb]; decide) (by decide) (by decide)
      (by decide), getField_putField_same _ _ _ (by rw [hb]; decide) (by decide), and_fieldOnes_toNat _ (by decide),
    BitVec.toNat_ofNat]
  show (t / 10 - 8) % 2 ^ 8 % 2 ^ 5 = t / 10 - 8
  omega

/-- The half-degree bit put for a temperature: rounded down. -/
theorem putTarget_ttHalf (t : Nat) {b : List Byte} (hb : b.length = 15) :
    (getField (putTarget t b) Config.ttHalf).toNat = if 5 ≤ t % 10 then 1 else 0 := by
  rw [putTarget, getField_putField_same _ _ _ (by rw [putField_length, hb]; decide) (by decide)]
  split_ifs <;> rfl

/-! ## The body -/

@[simp] theorem setcBody_length (s : State) : (setcBody s).length = 15 := by
  simp [setcBody]

/-- What a put of every layout entry keeps of a body, the set-params body keeps of its base. -/
theorem setcBody_keeps {α : Type} {g : List Byte → α}
    (h : ∀ p ∈ Config.entries Config.layout, ∀ b : List Byte, b.length = 15 → ∀ v, g (putField b p v) = g b)
    (s : State) : g (setcBody s) = g (setcBase s) := by
  rw [setcBody, applyTarget_keeps (h _ (by simp [Config.entries])) (h _ (by simp [Config.entries])) _ (by simp)]
  exact applyOverrides_keeps (fun F _ => h _ (Config.layout_mem_entries F.raw)) (setcBase_length s)

/-- Every entry of the layout lies in one byte, behind the code bytes (42_decode.md R170). -/
theorem entries_bounds {p : FieldPos} (h : p ∈ Config.entries Config.layout) :
    2 ≤ p.byte ∧ p.byte ≤ 14 ∧ p.lo + p.width ≤ 8 := by
  simp only [Config.entries, List.mem_cons, List.mem_map] at h
  obtain rfl | rfl | ⟨f, -, rfl⟩ := h
  · decide
  · decide
  · obtain ⟨hlo, hhi, -, -, hw⟩ := Config.layout_bounds f
    exact ⟨hlo, hhi, hw⟩

/-- The two code bytes (43_encode_transmit.md R195). -/
theorem setcBody_take_two (s : State) : (setcBody s).take 2 = [0x01, 0x01] := by
  refine setcBody_keeps (g := List.take 2) (fun p hp b _ v => ?_) s
  obtain ⟨hbyte, -⟩ := entries_bounds hp
  exact List.take_set_of_le hbyte

/-- A bit of no field is LAST_SMALL's (43_encode_transmit.md R195). -/
theorem setcBody_free_bit (s : State) {j k : Nat} (hj : j < 13) (hk : k < 8)
    (hfree : ∀ p ∈ Config.entries Config.layout, ¬ (p.byte = j + 2 ∧ p.lo ≤ k ∧ k < p.lo + p.width)) :
    ((setcBody s).getD (j + 2) 0x00).getLsbD k = (s.lastSmall[j]).getLsbD k := by
  rw [← setcBase_getD s hj]
  refine setcBody_keeps (g := fun b => (b.getD (j + 2) 0x00).getLsbD k) (fun p hp b hb v => ?_) s
  obtain ⟨-, hbyte, hw⟩ := entries_bounds hp
  rw [putField_getLsbD b p v _ _ (by omega) hw hk, if_neg fun hin => hfree p hp (hin.imp_left Eq.symm)]

/-- A raw field is the override's business alone: neither the target temperature nor the code bytes touch it. -/
theorem getField_setcBody (s : State) (f : RawField) :
    getField (setcBody s) (Config.layout f) = getField (applyOverrides s.cmdRaw (setcBase s)) (Config.layout f) :=
  getField_applyTarget _ f (by simp)

/-- An overridable field of the body (43_encode_transmit.md R196). -/
theorem getField_setcBody_cmd_toNat (s : State) (F : CmdField) :
    (getField (setcBody s) (Config.layout F.raw)).toNat =
      if (s.cmdRaw.get F).valid then (s.cmdRaw.get F).value.toNat % 2 ^ (Config.layout F.raw).width
      else (getField (lastBody s) (Config.layout F.raw)).toNat := by
  obtain ⟨-, -, -, -, hw⟩ := Config.layout_bounds F.raw
  rw [getField_setcBody]
  split_ifs with hv
  · rw [getField_applyOverrides_of_valid hv (setcBase_length s), and_fieldOnes_toNat _ (by omega)]
  · rw [getField_applyOverrides_of_untouched (Bool.eq_false_iff.mpr hv) (setcBase_length s), getField_setcBase]

/-- HEALTH_STATUS of the body is LAST_SMALL's. -/
theorem getField_setcBody_healthStatus (s : State) :
    getField (setcBody s) (Config.layout .healthStatus) = getField (lastBody s) (Config.layout .healthStatus) := by
  rw [getField_setcBody, getField_applyOverrides_healthStatus _ (setcBase_length s), getField_setcBase]

/-- A requested target temperature stands in the body clamped and rounded down (43_encode_transmit.md R197). -/
theorem setcBody_target {s : State} (h : s.cmdTargetTemp.getLsbD 15 = true) :
    ((setcBody s).getD 2 0x00).toNat / 8 = clampedTenths s.cmdTargetTemp / 10 - 8
      ∧ ((setcBody s).getD 5 0x00).toNat / 128 = if 5 ≤ clampedTenths s.cmdTargetTemp % 10 then 1 else 0 := by
  have hlen : (applyOverrides s.cmdRaw (setcBase s)).length = 15 := by simp
  have hclamp : clampedTenths s.cmdTargetTemp / 10 - 8 < 32 := by rw [clampedTenths_eq]; omega
  rw [← getField_ttInt_toNat, ← getField_ttHalf_toNat, setcBody, applyTarget, if_pos h]
  exact ⟨putTarget_ttInt hclamp hlen, putTarget_ttHalf _ hlen⟩

/-- With no target temperature requested, a field that shares no bit with a raw field is LAST_SMALL's. -/
theorem getField_setcBody_of_no_target {s : State} (h : s.cmdTargetTemp.getLsbD 15 = false) {p : FieldPos}
    (hp : p.lo + p.width ≤ 8) (hd : ∀ f, FieldPos.disjoint p (Config.layout f) = true) :
    getField (setcBody s) p = getField (setcBase s) p := by
  rw [setcBody, applyTarget, h, if_neg Bool.noConfusion]
  refine applyOverrides_keeps (g := fun b => getField b p) (fun F _ b hb v => ?_) (setcBase_length s)
  obtain ⟨-, hbyte, -, -, hw⟩ := Config.layout_bounds F.raw
  exact getField_putField_disjoint b _ _ v (by omega) hw hp (Config.disjoint_comm p _ ▸ hd F.raw)

/-- With no target temperature requested, the body's is LAST_SMALL's (43_encode_transmit.md R197). -/
theorem setcBody_no_target {s : State} (h : s.cmdTargetTemp.getLsbD 15 = false) :
    ((setcBody s).getD 2 0x00).toNat / 8 = (s.lastSmall[0]).toNat / 8
      ∧ ((setcBody s).getD 5 0x00).toNat / 128 = (s.lastSmall[3]).toNat / 128 := by
  rw [← setcBase_getD s (j := 0) (by decide), ← setcBase_getD s (j := 3) (by decide), ← getField_ttInt_toNat,
    ← getField_ttHalf_toNat, ← getField_ttInt_toNat, ← getField_ttHalf_toNat,
    getField_setcBody_of_no_target h (by decide) Config.layout_disjoint_ttInt,
    getField_setcBody_of_no_target h (by decide) Config.layout_disjoint_ttHalf]
  exact ⟨rfl, rfl⟩

end Sys2Proof.Machine
end

section
/-! SUPPORT. The encode and transmit operations by their written-out outcomes (43_encode_transmit.md R190 to R206). -/

namespace Sys2Proof.Machine

open Sys2Proof.Laws.EncodeShape

/-! ## The ENC operations -/

/-- What a build leaves: the frame in TXBUF, its length in TX_COUNT, `result` 1, and no other item changed. -/
theorem finish_loadTx_eq {bytes : List Byte} {n : Nat} (h : bytes.length = n) (s : State) :
    finish 0x0001 (loadTx bytes s) =
      { s with txBuf := blit s.txBuf 0 bytes, txCount := n, result := 0x0001, tx := none } := by
  subst h
  rfl

/-- With nothing queued, an ENC operation of a fixed frame queues the frame's bytes. -/
theorem encodeIdle_buildFrame_of_idle {ptype flag : Byte} {body bytes : List Byte} {n : Nat}
    (hbytes : (builtFrame ptype flag body).bytes = bytes) (hlen : bytes.length = n) {s : State} (h : s.txCount = 0) :
    encodeIdle (buildFrame ptype flag body) s =
      { s with txBuf := blit s.txBuf 0 bytes, txCount := n, result := 0x0001, tx := none } := by
  obtain ⟨hq, -⟩ | ⟨-, e⟩ := encodeIdle_cases (buildFrame ptype flag body) s
  · exact absurd h hq
  · rw [e, buildFrame, hbytes, finish_loadTx_eq hlen]

/-- With a frame queued, an ENC operation raises OpErr (43_encode_transmit.md R190). -/
theorem encodeIdle_of_queued (build : State → State) {s : State} (h : s.txCount ≠ 0) :
    encodeIdle build s = opErrOf s := by
  obtain ⟨-, e⟩ | ⟨hidle, -⟩ := encodeIdle_cases build s
  · exact e
  · exact absurd hidle h

/-- ENC.SETC with nothing queued and a small status decoded queues the 25 bytes of the set-params frame. -/
theorem exec_encSetc_of_idle {s : State} (h : s.txCount = 0) (hv : s.smallValid = true) :
    exec .encSetc s = .next { s with
      txBuf := blit s.txBuf 0 (builtFrame 0x06 0x00 (setcBody s)).bytes
      txCount := 25, result := 0x0001, tx := none } := by
  have hlen : (builtFrame 0x06 0x00 (setcBody s)).bytes.length = 25 := by
    rw [bytes_length, builtFrame, setcBody_length]
  obtain ⟨hq, -⟩ | ⟨-, hn, -⟩ | ⟨-, -, e⟩ := execEncSetc_cases s
  · exact absurd h hq
  · cases hn.symm.trans hv
  · exact e.trans (congrArg _ (finish_loadTx_eq hlen s))

/-- An ENC word with ADDR or DATA not zero is illegal (30_encoding.md R81, R84). -/
theorem illegalWord_of_enc_operand {w : Word} (hopc : opcNat w = 4) (h : addrNat w ≠ 0 ∨ dataNat w ≠ 0) :
    illegalWord w := by
  refine .inr (.inr (.inr fun hzero => ?_))
  rw [reservedZero, hopc, if_neg (by decide), if_neg (by decide), if_neg (by decide)] at hzero
  obtain ⟨haddr, hdata⟩ := hzero
  exact h.elim (absurd haddr) (absurd hdata)

/-! ## TXSEND -/

/-- The queued frame's bytes at the places TX_COUNT spans are TXBUF's. -/
theorem queuedBytes_getD {s : State} {i : Nat} (h : i < s.txCount) :
    (queuedBytes s).getD i 0x00 = s.txBuf.toList.getD i 0x00 := by
  rw [queuedBytes, List.getD_eq_getElem?_getD, List.getElem?_take_of_lt h, ← List.getD_eq_getElem?_getD]

/-- A send, written out over TXBUF. -/
theorem sendQueued_eq {s : State} (h : s.txCount ≠ 0) :
    sendQueued s = { s with
      tx := some (s.txBuf.toList.take s.txCount)
      lastTxCsum := s.txBuf.toList.getD (s.txCount - 1) 0x00 ++ s.txBuf.toList.getD (s.txCount - 2) 0x00
      status := s.status ||| 0x0400
      txBuf := txEmptyBuf, txCount := 0, result := 0x0001 } := by
  rw [← queuedBytes_getD (by omega : s.txCount - 1 < s.txCount),
    ← queuedBytes_getD (by omega : s.txCount - 2 < s.txCount)]
  rfl

/-- TXSEND with nothing queued, or with a busy line, changes nothing (43_encode_transmit.md R204). -/
theorem exec_txsend_of_not_ready {s : State} (h : s.txCount = 0 ∨ s.fstate ≠ .hunt ∨ s.rxPending = true) :
    exec .txsend s = .next (answered 0x0000 s) := by
  obtain ⟨-, e⟩ | ⟨hq, hf, hr, -⟩ := execTxsend_cases s
  · exact e
  · simp [hq, hf, hr] at h

/-- TXSEND with a frame queued and an idle line sends it. -/
theorem exec_txsend_of_ready {s : State} (hq : s.txCount ≠ 0) (hf : s.fstate = .hunt) (hr : s.rxPending = false) :
    exec .txsend s = .next (sendQueued s) := by
  obtain ⟨h, -⟩ | ⟨-, -, -, e⟩ := execTxsend_cases s
  · simp [hq, hf, hr] at h
  · exact e

end Sys2Proof.Machine
end

section
/-! PROOFS. Encode and transmit: O38, O39, O40, O43 and O45. -/

namespace Sys2Proof.Proofs.Encode

open Sys2Proof.Machine

/-- Settles O39: the body is `setcBody`, each clause by its lemma. -/
theorem setParamsFrameIsBuilt : Obligations.SetParamsFrameIsBuilt := by
  intro s hidle hvalid
  refine ⟨setcBody s, exec_encSetc_of_idle hidle hvalid, setcBody_length s, setcBody_take_two s,
    getField_setcBody_cmd_toNat s, getField_setcBody_healthStatus s, fun ht => ?_, setcBody_no_target,
    fun j k hj hk => setcBody_free_bit s hj hk⟩
  rw [← clampedTenths_eq]
  exact setcBody_target ht

/-- Settles O40: overrides commute, so the merged body can be read off the order in which a given field comes last. -/
theorem overrideOrderDoesNotMatter : Obligations.OverrideOrderDoesNotMatter := fun r b _ hb hperm =>
  ⟨foldl_applyOverride_of_perm r b hperm, fun _ hv => getField_applyOverrides_of_valid hv hb,
    fun _ hv => getField_applyOverrides_of_untouched hv hb, getField_applyOverrides_healthStatus r hb⟩

/-- Settles O38: each frame's bytes are computed, and a build is refused or illegal by the shared lemmas. -/
theorem fixedFramesAreBuilt : Obligations.FixedFramesAreBuilt := by
  refine ⟨rfl, rfl, rfl, fun s => ⟨fun h => ⟨?pong, ?reqs, ?reqb⟩, fun h => ⟨?pongBusy, ?reqsBusy, ?reqbBusy⟩,
    fun w hopc _ hop => ?illegal⟩⟩
  case pong | reqs | reqb => exact congrArg _ (encodeIdle_buildFrame_of_idle (by decide) rfl h)
  case pongBusy | reqsBusy | reqbBusy => exact congrArg _ (encodeIdle_of_queued _ h)
  case illegal =>
    obtain ⟨hrun, -⟩ := Encoding.illegalWordsRaiseOpErr w
    exact hrun (illegalWord_of_enc_operand hopc hop) s

/-- Settles O43: the three cases of TXSEND, and 0x50000000 is the one legal word of OPC 5. -/
theorem txsendSendsWhenTheLineIsIdle : Obligations.TxsendSendsWhenTheLineIsIdle := by
  refine ⟨rfl, fun s => ⟨fun h => exec_txsend_of_not_ready (.inl h), fun _ h => exec_txsend_of_not_ready (.inr h),
    fun hq hf hr => ?_, onlyLegalWord_of_plainOp (i := .txsend) (by decide) s⟩⟩
  rw [exec_txsend_of_ready hq hf hr, sendQueued_eq hq]
  rfl

/-- Settles O45: TXCLR is `TxReset`, and 0x90000000 is the one legal word of OPC 9. -/
theorem txclrEmptiesTheTransmitSide : Obligations.TxclrEmptiesTheTransmitSide :=
  ⟨rfl, fun s => ⟨rfl, onlyLegalWord_of_plainOp (i := .txclr) (by decide) s⟩⟩

end Sys2Proof.Proofs.Encode
end

section
/-! SUPPORT. The register operations: the RD and WR words from their fields, the computed and packed registers as
numbers, and the override registers after a write of another one and after CMDCLR. -/

namespace Sys2Proof

open Sys2Proof.Machine

/-! ## Words from their fields -/

/-- A word as the OR of its fields at their places (30_encoding.md R80). -/
theorem opWord_eq_or (opc sub : BitVec 4) (a : Byte) (d : Half) :
    opWord opc sub a d =
      (opc.setWidth 32 <<< 28) ||| (sub.setWidth 32 <<< 24) ||| (a.setWidth 32 <<< 16) ||| d.setWidth 32 := by
  apply BitVec.eq_of_toNat_eq
  have hopc : opc.toNat <<< 28 % 2 ^ 32 = opc.toNat <<< 28 := Nat.mod_eq_of_lt (by rw [Nat.shiftLeft_eq]; omega)
  have hsub : sub.toNat <<< 24 % 2 ^ 32 = sub.toNat <<< 24 := Nat.mod_eq_of_lt (by rw [Nat.shiftLeft_eq]; omega)
  have ha : a.toNat <<< 16 % 2 ^ 32 = a.toNat <<< 16 := Nat.mod_eq_of_lt (by rw [Nat.shiftLeft_eq]; omega)
  calc (opWord opc sub a d).toNat
    _ = (opc ++ sub ++ a ++ d : BitVec (4 + 4 + 8 + 16)).toNat := rfl
    _ = opc.toNat <<< 28 ||| sub.toNat <<< 24 ||| a.toNat <<< 16 ||| d.toNat := by
      simp only [BitVec.toNat_append, Nat.shiftLeft_or_distrib, ← Nat.shiftLeft_add]
    _ = _ := by
      simp only [BitVec.toNat_or, BitVec.toNat_shiftLeft, BitVec.toNat_setWidth_of_le, Nat.reduceLeDiff, hopc, hsub, ha]

theorem opWord_inj {opc opc' sub sub' : BitVec 4} {a a' : Byte} {d d' : Half} :
    opWord opc sub a d = opWord opc' sub' a' d' ↔ ((opc = opc' ∧ sub = sub') ∧ a = a') ∧ d = d' :=
  append_inj_iff.trans (and_congr_left' (append_inj_iff.trans (and_congr_left' append_inj_iff)))

/-- The fields of a word put together are the ones it was put together from. -/
theorem fields_opWord (opc sub : BitVec 4) (a : Byte) (d : Half) :
    ((opcOf (opWord opc sub a d) = opc ∧ subOf (opWord opc sub a d) = sub) ∧ addrOf (opWord opc sub a d) = a)
      ∧ dataOf (opWord opc sub a d) = d :=
  opWord_inj.mp (opWord_fields _)

theorem decodeOp_rd_word (a : Byte) : decodeOp (opWord 0x6 0 a 0) = .ok (.rd a) := by
  obtain ⟨⟨⟨hopc, hsub⟩, haddr⟩, hdata⟩ := fields_opWord 0x6 0 a 0
  have hfmt : decodeOp (opWord 0x6 0 a 0) = formatA (opWord 0x6 0 a 0) .rd := by rw [decodeOp, hopc]; rfl
  exact hfmt.trans (formatA_ok_iff.mpr ⟨hsub, hdata, congrArg _ haddr⟩)

theorem decodeOp_wr_word (a : Byte) (d : Half) : decodeOp (opWord 0x7 0 a d) = .ok (.wr a d) := by
  obtain ⟨⟨⟨hopc, hsub⟩, haddr⟩, hdata⟩ := fields_opWord 0x7 0 a d
  have hfmt : decodeOp (opWord 0x7 0 a d) = formatAD (opWord 0x7 0 a d) .wr := by rw [decodeOp, hopc]; rfl
  exact hfmt.trans (formatAD_ok_iff.mpr ⟨hsub, congrArg₂ _ haddr hdata⟩)

/-- A word with SUB not zero is illegal for every OPC but ENC's (30_encoding.md R81, R84). -/
theorem illegalWord_of_sub {w : Word} (hopc : opcNat w ≠ 4) (h : subNat w ≠ 0) : illegalWord w :=
  .inr (.inr (.inl ⟨hopc, h⟩))

/-- An RD word with DATA not zero is illegal (30_encoding.md R81, R84). -/
theorem illegalWord_of_rd_data {w : Word} (hopc : opcNat w = 6) (h : dataNat w ≠ 0) : illegalWord w := by
  refine .inr (.inr (.inr fun hzero => h ?_))
  rwa [reservedZero, hopc, if_neg (by decide), if_pos rfl] at hzero

end Sys2Proof

namespace Sys2Proof.Machine

/-! ## LSTATE as a sum -/

/-- A flag above every bit of a value adds its weight to it. -/
theorem or_flagBit_toNat {x : Half} {n : Nat} (hx : x.toNat < 2 ^ n) (hn : n < 16) (b : Bool) :
    (x ||| flagBit b n).toNat = x.toNat + if b then 2 ^ n else 0 := by
  rw [BitVec.toNat_or, flagBit_toNat b hn]
  cases b with
  | false => simp
  | true =>
    have hadd : 2 ^ n * 1 + x.toNat = 2 ^ n * 1 ||| x.toNat := Nat.two_pow_add_eq_or_of_lt hx 1
    rw [Nat.mul_one] at hadd
    rw [if_pos rfl, Nat.or_comm, ← hadd, Nat.add_comm]

/-- With that flag the value stays below the next place. -/
theorem or_flagBit_lt {x : Half} {n : Nat} (hx : x.toNat < 2 ^ n) (hn : n < 16) (b : Bool) :
    (x ||| flagBit b n).toNat < 2 ^ (n + 1) := by
  rw [or_flagBit_toNat hx hn, Nat.pow_succ]
  split <;> omega

/-- HDR_AVAIL (10_state.md R32). -/
theorem headerAvailable_iff (s : State) :
    headerAvailable s = true ↔ 8 ≤ s.rxCount ∧ (s.fstate ≠ .hunt ∨ s.retained = true) := by
  simp only [headerAvailable, Bool.and_eq_true, decide_eq_true_eq, Bool.or_eq_true, bne_iff_ne]

theorem encoding_lt (f : FState) : f.encoding.toNat < 2 ^ 2 := by
  cases f <;> decide

/-- The parts of LSTATE share no bit, so they add (10_state.md R32). -/
theorem lstateValue_toNat (s : State) :
    (lstateValue s).toNat = s.fstate.encoding.toNat
      + (if 8 ≤ s.rxCount ∧ (s.fstate ≠ .hunt ∨ s.retained = true) then 4 else 0)
      + (if s.retained then 8 else 0) + (if s.smallValid then 16 else 0) + (if s.bigValid then 32 else 0)
      + (if s.txCount ≠ 0 then 64 else 0) := by
  have h2 := encoding_lt s.fstate
  have h3 := or_flagBit_lt h2 (by decide) (headerAvailable s)
  have h4 := or_flagBit_lt h3 (by decide) s.retained
  have h5 := or_flagBit_lt h4 (by decide) s.smallValid
  have h6 := or_flagBit_lt h5 (by decide) s.bigValid
  rw [lstateValue, or_flagBit_toNat h6 (by decide), or_flagBit_toNat h5 (by decide), or_flagBit_toNat h4 (by decide),
    or_flagBit_toNat h3 (by decide), or_flagBit_toNat h2 (by decide)]
  simp only [headerAvailable_iff, bne_iff_ne, Nat.reduceAdd, Nat.reducePow]

/-! ## Registers in numbers -/

/-- A count of at most 34 reads as itself (44_register_ops.md R221). -/
theorem count_toNat {n : Nat} (h : n ≤ 34) : (BitVec.ofNat 16 n).toNat = n :=
  Nat.mod_eq_of_lt (by omega)

/-- The two halves of a value of the time base make it up (44_register_ops.md R221). -/
theorem halves_toNat (t : Word) : (t.extractLsb' 0 16).toNat + 65536 * (t.extractLsb' 16 16).toNat = t.toNat := by
  simp only [BitVec.extractLsb'_toNat, Nat.shiftRight_eq_div_pow]
  omega

/-- A byte of RXBUF at or beyond RX_COUNT reads 0 where RXBUF is zero from there on (44_register_ops.md R222). -/
theorem readReg_rxBuf_of_zeroFrom {s : State} {i : Fin 34} (hz : zeroFrom s.rxBuf s.rxCount)
    (h : s.rxCount ≤ i.val) : readReg s (.rxBuf i) = 0x0000 := by
  have hbyte : s.rxBuf.get i = 0x00 := hz i.val i.isLt h
  rw [readReg, hbyte]
  rfl

/-! ## The override registers -/

/-- A write of an override register reaches that one and leaves the others. -/
theorem CmdRaw.get_set (r : CmdRaw) (F G : CmdField) (v : CmdReg) :
    (r.set F v).get G = if G = F then v else r.get G := by
  cases F <;> cases G <;> rfl

@[simp] theorem CmdRaw.get_untouched (F : CmdField) : CmdRaw.untouched.get F = .untouched := by
  cases F <;> rfl

end Sys2Proof.Machine
end

section
/-! PROOFS. The register operations: O51, O2, O47, O50, O52 and O54. -/

namespace Sys2Proof.Proofs.RegisterOps

open Sys2Proof.Machine

/-- Settles O51: the plain registers are the fields, the packed ones each by its sum. -/
theorem computedRegistersReadAsTheSpecSays : Obligations.ComputedRegistersReadAsTheSpecSays := by
  intro s
  refine ⟨⟨rfl, rfl, rfl, rfl, rfl, rfl, fun _ => rfl, rfl, rfl⟩,
    fun hrx hnoise htx => ⟨count_toNat hrx, count_toNat hnoise, count_toNat htx⟩, ?lstate,
    halves_toNat s.rxStart, halves_toNat s.rxDone, fun F => CmdReg.read_toNat _,
    fun i => ⟨BitVec.toNat_setWidth_of_le (by decide), BitVec.toNat_setWidth_of_le (by decide)⟩,
    fun k => BitVec.toNat_setWidth_of_le (by decide)⟩
  case lstate =>
    rw [readReg, lstateValue_toNat]
    cases s.fstate <;> rfl

/-- Settles O2: SRST is `softReset`, and 0xF0000000 is the one legal word of OPC 0xF. -/
theorem srstRestoresTheResetState : Obligations.SrstRestoresTheResetState :=
  ⟨rfl, fun s => ⟨⟨_, rfl, rfl⟩, onlyLegalWord_of_plainOp (i := .srst) (by decide) s⟩⟩

/-- Settles O47: NOP only answers, and 0x00000000 is the one legal word of OPC 0. -/
theorem nopChangesNothing : Obligations.NopChangesNothing :=
  ⟨rfl, fun s => ⟨rfl, onlyLegalWord_of_plainOp (i := .nop) (by decide) s⟩⟩

/-- Settles O50: RD by the register its address names, and RXBUF beyond RX_COUNT is zero by the receive invariant. -/
theorem readReturnsTheRegister : Obligations.ReadReturnsTheRegister := by
  intro s a
  refine ⟨?word, ?value, fun h => exec_rd_reserved h s, ?illegal, ?rxBuf⟩
  case word =>
    have hword : opWord 0x6 0 a 0 = 0x60000000 ||| (a.setWidth 32 <<< 16) := by simp [opWord_eq_or]
    exact hword ▸ decodeOp_rd_word a
  case value =>
    intro r hr
    obtain rfl := regAt_eq_some_iff.mp hr
    exact exec_rd_addr r s
  case illegal =>
    intro w hopc h
    obtain ⟨hrun, -⟩ := Encoding.illegalWordsRaiseOpErr w
    exact hrun (h.elim (illegalWord_of_sub (by omega)) (illegalWord_of_rd_data hopc)) s
  case rxBuf =>
    rintro i ⟨-, hzero, -⟩ hi rfl
    rw [← readReg_rxBuf_of_zeroFrom hzero hi]
    exact exec_rd_addr (.rxBuf i) s

/-- Settles O52: each writable register by its own write, every other address by the read-only rule. -/
theorem writeReachesOnlyItsRegister : Obligations.WriteReachesOnlyItsRegister := by
  intro s a d
  refine ⟨?word, exec_wr_addr (r := .status) rfl, exec_wr_addr (r := .irqEn) rfl,
    exec_wr_addr (r := .cmdTargetTemp) rfl, ?override, fun h => exec_wr_readOnly h d s, ?illegal⟩
  case word =>
    have hword : opWord 0x7 0 a d = 0x70000000 ||| (a.setWidth 32 <<< 16) ||| d.setWidth 32 := by
      simp [opWord_eq_or]
    exact hword ▸ decodeOp_wr_word a d
  case override =>
    intro F
    refine ⟨⟨d.getLsbD 15, d.extractLsb' 0 8 &&& fieldOnes (Config.layout F.raw)⟩, rfl, cut_toNat d F.raw,
      exec_wr_addr (r := .cmd F) rfl, CmdRaw.get_set_same _ _ _, fun G hG => ?_⟩
    rw [CmdRaw.get_set, if_neg hG]
  case illegal =>
    intro w hopc h
    obtain ⟨hrun, -⟩ := Encoding.illegalWordsRaiseOpErr w
    exact hrun (illegalWord_of_sub (by omega) h) s

/-- Settles O54: CMDCLR stores the untouched overrides, and 0x80000000 is the one legal word of OPC 8. -/
theorem cmdclrUntouchesEveryOverride : Obligations.CmdclrUntouchesEveryOverride := by
  refine ⟨rfl, fun s => ⟨⟨.untouched, fun F => ?_, rfl⟩, onlyLegalWord_of_plainOp (i := .cmdclr) (by decide) s⟩⟩
  rw [CmdRaw.get_untouched]
  exact ⟨rfl, rfl⟩

end Sys2Proof.Proofs.RegisterOps
end

section
/-! SUPPORT. The operation errors of PARSE and ENC.SETC by their written-out outcome (42_decode.md R160,
43_encode_transmit.md R190, R200). -/

namespace Sys2Proof.Machine

/-- PARSE raises OpErr when no complete frame is held (42_decode.md R160). -/
theorem exec_parse_of_ne_parsing {s : State} (h : s.fstate ≠ .parsing) : exec .parse s = .next (opErrOf s) := by
  obtain ⟨-, e⟩ | ⟨hp, -⟩ | ⟨hp, -⟩ := execParse_cases s
  · exact e
  · exact absurd hp h
  · exact absurd hp h

/-- ENC.SETC raises OpErr when a frame is queued (43_encode_transmit.md R190). -/
theorem exec_encSetc_of_queued {s : State} (h : s.txCount ≠ 0) : exec .encSetc s = .next (opErrOf s) := by
  obtain ⟨-, e⟩ | ⟨hidle, -⟩ | ⟨hidle, -⟩ := execEncSetc_cases s
  · exact e
  · exact absurd hidle h
  · exact absurd hidle h

/-- ENC.SETC raises OpErr when nothing is queued and no small status has been decoded (43_encode_transmit.md R200). -/
theorem exec_encSetc_of_no_base {s : State} (h : s.txCount = 0) (hv : s.smallValid = false) :
    exec .encSetc s = .next (opErrOf s) := by
  obtain ⟨hq, -⟩ | ⟨-, -, e⟩ | ⟨-, hbase, -⟩ := execEncSetc_cases s
  · exact absurd h hq
  · exact e
  · cases hv.symm.trans hbase

end Sys2Proof.Machine
end

section
/-! PROOFS. The causes of an operation error: O35. -/

namespace Sys2Proof.Proofs.Exceptions

open Sys2Proof.Machine

/-- Settles O35: each cause of 60_exceptions.md R242 by the lemma of the operation that raises it. -/
theorem operationErrorsChangeNothingElse : Obligations.OperationErrorsChangeNothingElse := by
  intro s
  refine ⟨fun w hill => ?illegal, exec_parse_of_ne_parsing, fun hq => ⟨?pong, ?reqs, ?reqb, exec_encSetc_of_queued hq⟩,
    exec_encSetc_of_no_base, fun a h => exec_rd_reserved h s, fun a d h => exec_wr_readOnly h d s⟩
  case illegal =>
    obtain ⟨hrun, -⟩ := Encoding.illegalWordsRaiseOpErr w
    exact hrun hill s
  case pong | reqs | reqb => exact congrArg _ (encodeIdle_of_queued _ hq)

end Sys2Proof.Proofs.Exceptions
end

section
/-! SUPPORT. The reset state (70_reset_and_hazards.md R270) where a row names more than one value: the raw-field AC
registers, the TXBUF bytes, the overrides, and `irq`. -/

namespace Sys2Proof.Machine

@[simp] theorem AcRaw.get_zero (f : RawField) : AcRaw.zero.get f = 0 := by
  cases f <;> rfl

/-- The TXBUF bytes in the order in which R270 lists them. -/
theorem txBuf_reset_getElem {i : Nat} (hi : i < 34) :
    State.reset.txBuf[i] = if i = 0 then 0xBB#8 else if i = 3 then 0x80#8 else 0x00#8 := by
  have hbytes : State.reset.txBuf[i] = if i = 3 then 0x80#8 else if i = 0 then 0xBB#8 else 0x00#8 :=
    txEmptyBuf_getElem hi
  rw [hbytes]
  split_ifs with h3 h0
  · omega
  all_goals rfl

theorem cmdRaw_reset_get (F : CmdField) : State.reset.cmdRaw.get F = .untouched :=
  CmdRaw.get_untouched F

/-- No event is enabled at reset, so `irq` is low (60_exceptions.md R246). -/
theorem irq_reset : State.reset.irq = false := by decide

end Sys2Proof.Machine
end

section
/-! PROOFS. The reset state, item by item: O1. -/

namespace Sys2Proof.Proofs.Reset

open Sys2Proof.Machine

/-- Settles O1: the rows of R270 that name one value are fields of `State.reset`; the buffers, the register families
and `irq` go by their lemmas. -/
theorem resetStateIsTheSpecs : Obligations.ResetStateIsTheSpecs := by
  have hcmd : ∀ F, (State.reset.cmdRaw.get F).valid = false ∧ (State.reset.cmdRaw.get F).value = 0x00
      ∧ (State.reset.cmdRaw.get F).read = 0x0000 := by
    intro F
    rw [cmdRaw_reset_get]
    exact ⟨rfl, rfl, rfl⟩
  exact ⟨rfl, fun _ h => zeroBuf_getElem h, rfl, rfl, rfl, rfl, rfl, fun _ h => txBuf_reset_getElem h, rfl, rfl, rfl,
    rfl, rfl, rfl, rfl, rfl, rfl, AcRaw.get_zero, rfl, rfl, fun _ h => Vector.getElem_replicate h, rfl, hcmd, irq_reset⟩

end Sys2Proof.Proofs.Reset
end

section
/-! SUPPORT. Instructions and their codes: a class instruction is well-formed exactly if its frame fits and is of that
class, the word of an operation decodes to it, and a byte sequence that decodes is the bytes of the frame it starts
with (30_encoding.md R82, R90 to R95). -/

namespace Sys2Proof

open Sys2Proof.Machine Sys2Proof.Laws.EncodeShape

/-! ## Well-formed class instructions -/

theorem infoWith_iff {f : Frame} {code : Byte} :
    f.infoWith code = true ↔ f.ptype.toNat = 7 ∧ ¬ f.body.length < 2 ∧ f.echo.toNat = code.toNat := by
  simp only [Frame.infoWith, Bool.and_eq_true, beq_iff_eq, decide_eq_true_eq, Nat.not_lt, BitVec.toNat_inj, and_assoc]
  exact and_congr_left' (BitVec.toNat_inj (y := 0x07#8)).symm

/-- A frame that fits makes a well-formed instruction of its class. -/
theorem classOf_instr_wellFormed {f : Frame} (h : f.fits = true) : (f.classOf.instr f).wellFormed = true := by
  have htype {t : Byte} (ht : f.ptype.toNat = t.toNat) : (f.ptype == t) = true :=
    beq_iff_eq.mpr (BitVec.toNat_inj.mp ht)
  unfold Frame.classOf
  split
  case h_1 ht | h_2 ht | h_4 ht | h_5 ht => exact Bool.and_eq_true_iff.mpr ⟨h, htype ht⟩
  case h_3 ht =>
    split_ifs with hshort
    · simp only [FrameClass.instr, Instr.wellFormed, h, htype (t := 0x07) ht, hshort, decide_true, Bool.and_self]
    · split
      case h_1 he | h_2 he | h_3 he | h_4 he => exact Bool.and_eq_true_iff.mpr ⟨h, infoWith_iff.mpr ⟨ht, hshort, he⟩⟩
      case h_5 =>
        have hinfo : f.infoWith f.echo = true := infoWith_iff.mpr ⟨ht, hshort, rfl⟩
        simp_all [FrameClass.instr, Instr.wellFormed, ← BitVec.toNat_inj]
  case h_6 => simp_all [FrameClass.instr, Instr.wellFormed, ← BitVec.toNat_inj]

/-- A class instruction is well-formed exactly if its frame fits and is of that class. -/
theorem instr_wellFormed_iff {c : FrameClass} {f : Frame} :
    (c.instr f).wellFormed = true ↔ f.fits = true ∧ f.classOf = c := by
  refine ⟨fun h => ?_, fun ⟨hfits, hc⟩ => hc ▸ classOf_instr_wellFormed hfits⟩
  cases c <;>
    simp only [FrameClass.instr, Instr.wellFormed, infoWith_iff, Bool.and_eq_true, beq_iff_eq, decide_eq_true_eq] at h
  case ping | command | init | unknownVendor =>
    obtain ⟨hfits, ht⟩ := h
    exact ⟨hfits, by simp [Frame.classOf, ht]⟩
  case infoShort =>
    obtain ⟨⟨hfits, ht⟩, hshort⟩ := h
    exact ⟨hfits, by simp [Frame.classOf, ht, if_pos hshort]⟩
  case infoSetpEcho | infoSmall | infoBig | infoPeriodic =>
    obtain ⟨hfits, ht, hlong, he⟩ := h
    exact ⟨hfits, by simp [Frame.classOf, ht, show ¬ f.body.length < Config.infoMinLen from hlong, he]⟩
  case infoOther =>
    obtain ⟨⟨hfits, ht, hlong, -⟩, he⟩ := h
    simp only [List.contains_eq_mem, List.mem_cons, ← BitVec.toNat_inj] at he
    exact ⟨hfits, by simp_all [Frame.classOf, show ¬ f.body.length < Config.infoMinLen from hlong]⟩
  case otherType =>
    obtain ⟨hfits, ht⟩ := h
    simp only [List.contains_eq_mem, List.mem_cons, ← BitVec.toNat_inj] at ht
    exact ⟨hfits, by simp_all [Frame.classOf]⟩

/-! ## Operation words -/

theorem decodeOp_rxb_word (b : Byte) : decodeOp (opWord 0x1 0 0 (b.setWidth 16)) = .ok (.rxb b) := by
  obtain ⟨⟨⟨hopc, hsub⟩, haddr⟩, hdata⟩ := fields_opWord 0x1 0 0 (b.setWidth 16)
  have hfmt : decodeOp (opWord 0x1 0 0 (b.setWidth 16)) = formatB (opWord 0x1 0 0 (b.setWidth 16)) .rxb := by
    rw [decodeOp, hopc]; rfl
  have hhigh : (b.setWidth 16).extractLsb' 8 8 = 0 := by
    apply BitVec.eq_of_toNat_eq
    rw [BitVec.extractLsb'_toNat, BitVec.toNat_setWidth_of_le (by decide), Nat.shiftRight_eq_div_pow,
      Nat.div_eq_of_lt (show b.toNat < 2 ^ 8 from b.isLt)]
    rfl
  have hlow : (b.setWidth 16).extractLsb' 0 8 = b := by
    apply BitVec.eq_of_toNat_eq
    rw [BitVec.extractLsb'_toNat, BitVec.toNat_setWidth_of_le (by decide), Nat.shiftRight_zero]
    exact Nat.mod_eq_of_lt b.isLt
  exact hfmt.trans (formatB_ok_iff.mpr ⟨hsub, ⟨haddr, by rw [hdata, hhigh]⟩, by rw [hdata, hlow]⟩)

/-- The word of an operation decodes to it (30_encoding.md R82). -/
theorem decode_encode_operation {i : Instr} (h : isOperation i = true) : decode (encode i) = .ok i := by
  cases i with
  | rxb b => exact decodeOp_rxb_word b
  | rd a => exact decodeOp_rd_word a
  | wr a d => exact decodeOp_wr_word a d
  | nop | tick | parse | encPong | encReqs | encReqb | encSetc | txsend | cmdclr | txclr | rxclr | srst => rfl
  | _ => cases h

/-- Every instruction is an operation or a class with its frame. -/
theorem instr_cases (i : Instr) : isOperation i = true ∨ ∃ (c : FrameClass) (f : Frame), i = c.instr f := by
  cases i with
  | ping f => exact .inr ⟨.ping, f, rfl⟩
  | command f => exact .inr ⟨.command, f, rfl⟩
  | infoSetpEcho f => exact .inr ⟨.infoSetpEcho, f, rfl⟩
  | infoSmall f => exact .inr ⟨.infoSmall, f, rfl⟩
  | infoBig f => exact .inr ⟨.infoBig, f, rfl⟩
  | infoPeriodic f => exact .inr ⟨.infoPeriodic, f, rfl⟩
  | infoOther f => exact .inr ⟨.infoOther, f, rfl⟩
  | infoShort f => exact .inr ⟨.infoShort, f, rfl⟩
  | init f => exact .inr ⟨.init, f, rfl⟩
  | unknownVendor f => exact .inr ⟨.unknownVendor, f, rfl⟩
  | otherType f => exact .inr ⟨.otherType, f, rfl⟩
  | _ => exact .inl rfl

theorem operation_wellFormed {i : Instr} (h : isOperation i = true) : i.wellFormed = true := by
  cases i with
  | ping | command | infoSetpEcho | infoSmall | infoBig | infoPeriodic | infoOther | infoShort | init
  | unknownVendor | otherType => cases h
  | _ => rfl

@[simp] theorem encode_instr (c : FrameClass) (f : Frame) : encode (c.instr f) = .frame f.bytes := by
  cases c <;> rfl

/-- The format N operations' codes, from their OPCs. -/
theorem encode_plainOps :
    ∀ p ∈ plainOps, isOperation p.2 = true ∧ encode p.2 = .op (opWord (BitVec.ofNat 4 p.1) 0 0 0) := by decide

/-- The ENC operations' codes, from their SUBs. -/
theorem encode_encOps :
    ∀ p ∈ encOps, isOperation p.2 = true ∧ encode p.2 = .op (opWord 0x4 (BitVec.ofNat 4 p.1) 0 0) := by decide

/-- A half with a zero high byte is its low byte. -/
theorem setWidth_lowByte {d : Half} (h : d.extractLsb' 8 8 = 0) : (d.extractLsb' 0 8).setWidth 16 = d := by
  have hzero : (0 : Byte).toNat <<< 8 = 0 := rfl
  conv_rhs => rw [← half_bytes d, h]
  apply BitVec.eq_of_toNat_eq
  rw [BitVec.toNat_append, hzero, Nat.zero_or, BitVec.toNat_setWidth_of_le (by decide)]

/-- A word that decodes is the code of its operation: its format leaves no bit of it free (30_encoding.md R81, R82). -/
theorem encode_of_decodeOp {w : Word} {i : Instr} (h : decodeOp w = .ok i) :
    isOperation i = true ∧ encode i = .op w := by
  have hword {opc sub : BitVec 4} {a : Byte} {d : Half} (ho : opcOf w = opc) (hs : subOf w = sub)
      (ha : addrOf w = a) (hd : dataOf w = d) : Code.op (opWord opc sub a d) = .op w := by
    rw [← ho, ← hs, ← ha, ← hd, opWord_fields]
  have hopcOf {n : Nat} (hn : opcNat w = n) : opcOf w = BitVec.ofNat 4 n := hn ▸ opcOf_eq_ofNat w
  rcases decodeOp_cases w with ⟨j, hj, e⟩ | ⟨hopc, e⟩ | ⟨hopc, e⟩ | ⟨hopc, e⟩ | ⟨hopc, e⟩ | ⟨-, e⟩ <;>
    rw [e] at h
  · obtain ⟨hsub, ⟨haddr, hdata⟩, rfl⟩ := formatN_ok_iff.mp h
    obtain ⟨hop, hcode⟩ := encode_plainOps _ hj
    exact ⟨hop, hcode.trans (hword (opcOf_eq_ofNat w) hsub haddr hdata)⟩
  · obtain ⟨hsub, ⟨haddr, hdata⟩, rfl⟩ := formatB_ok_iff.mp h
    exact ⟨rfl, hword (hopcOf hopc) hsub haddr (setWidth_lowByte hdata).symm⟩
  · obtain ⟨hi, haddr, hdata⟩ := formatS_ok_iff.mp h
    obtain ⟨hop, hcode⟩ := encode_encOps _ hi
    exact ⟨hop, hcode.trans (hword (hopcOf hopc) (subOf_eq_ofNat w) haddr hdata)⟩
  · obtain ⟨hsub, hdata, rfl⟩ := formatA_ok_iff.mp h
    exact ⟨rfl, hword (hopcOf hopc) hsub rfl hdata⟩
  · obtain ⟨hsub, rfl⟩ := formatAD_ok_iff.mp h
    exact ⟨rfl, hword (hopcOf hopc) hsub rfl rfl⟩
  · cases h

/-! ## Frame bytes -/

/-- The first 8 bytes of a sequence that has them. -/
theorem take_eight {bytes : List Byte} (h : 8 ≤ bytes.length) :
    bytes.take 8 = [bytes.getD 0 0x00, bytes.getD 1 0x00, bytes.getD 2 0x00, bytes.getD 3 0x00, bytes.getD 4 0x00,
      bytes.getD 5 0x00, bytes.getD 6 0x00, bytes.getD 7 0x00] := by
  refine List.ext_getElem (by simpa using h) fun i h1 h2 => ?_
  have hi : i < 8 := h2
  rw [List.getElem_take, ← List.getD_eq_getElem bytes 0x00 (by omega)]
  interval_cases i <;> rfl

/-- A byte sequence with a start marker, as long as its length byte says, is the header and the body of the frame it
starts with and two bytes more (30_encoding.md R90, R93). -/
theorem eq_header_body_append {bytes : List Byte} (hsof : bytes.getD 0 0x00 = Config.sof)
    (hlen : bytes.length = Config.hdrLen + bodyLen bytes + Config.csumLen) :
    (Frame.ofBytes bytes).body.length = bodyLen bytes
      ∧ ∃ c0 c1, bytes = (Frame.ofBytes bytes).header ++ (Frame.ofBytes bytes).body ++ [c0, c1] := by
  have hbody : (Frame.ofBytes bytes).body.length = bodyLen bytes := by
    simp only [Frame.ofBytes, List.length_take, List.length_drop, hlen, Config.hdrLen, Config.csumLen]
    omega
  have hheader : (Frame.ofBytes bytes).header = bytes.take 8 := by
    rw [Frame.header, hbody, bodyLen, BitVec.ofNat_toNat, BitVec.setWidth_eq, ← hsof]
    exact (take_eight (by simp only [hlen, Config.hdrLen, Config.csumLen]; omega)).symm
  obtain ⟨c0, c1, hcs⟩ : ∃ c0 c1, (bytes.drop 8).drop (bodyLen bytes) = [c0, c1] := by
    refine List.length_eq_two.mp ?_
    simp only [List.length_drop, hlen, Config.hdrLen, Config.csumLen]
    omega
  refine ⟨hbody, c0, c1, ?_⟩
  rw [hheader, ← hcs, Frame.ofBytes, Config.hdrLen, List.append_assoc, List.take_append_drop, List.take_append_drop]

/-- A byte sequence that decodes is the bytes of the frame it starts with, which fits. -/
theorem bytes_of_decodeFrame {bytes : List Byte} {i : Instr} (h : decodeFrame bytes = .ok i) :
    (Frame.ofBytes bytes).fits = true ∧ (Frame.ofBytes bytes).bytes = bytes
      ∧ i = (Frame.ofBytes bytes).classOf.instr (Frame.ofBytes bytes) := by
  unfold decodeFrame at h
  split_ifs at h with hsof hmax hlen hcs
  obtain ⟨hbody, c0, c1, hbytes⟩ := eq_header_body_append (not_not.mp hsof) (not_not.mp hlen)
  have hfits : (Frame.ofBytes bytes).fits = true := decide_eq_true (hbody ▸ Nat.not_lt.mp hmax)
  have hplaced := (csumMatches_frame_iff hfits c0 c1).mp (hbytes ▸ (Bool.not_eq_false _).mp hcs)
  exact ⟨hfits, by rw [Frame.bytes, hplaced]; exact hbytes.symm, (Except.ok.inj h).symm⟩

end Sys2Proof
end

section
/-! PROOFS. Decoding and encoding undo each other: O7 and O8; the words and frames written out: O12. -/

namespace Sys2Proof.Proofs.Codes

open Sys2Proof.Machine

/-- Settles O7: an operation by its word's fields, a class by its frame's bytes. -/
theorem decodeOfEncodeIsTheInstruction : Obligations.DecodeOfEncodeIsTheInstruction := by
  intro i hwf
  obtain hop | ⟨c, f, rfl⟩ := instr_cases i
  · exact decode_encode_operation hop
  · obtain ⟨hfits, rfl⟩ := instr_wellFormed_iff.mp hwf
    rw [encode_instr, decode_bytes hfits]

/-- Settles O8: a word's format leaves no bit free, and a frame's two last bytes are its checksum. -/
theorem encodeOfDecodeIsTheCode : Obligations.EncodeOfDecodeIsTheCode := by
  intro c i h
  cases c with
  | op w =>
    obtain ⟨hop, hcode⟩ := encode_of_decodeOp h
    exact ⟨operation_wellFormed hop, hcode⟩
  | frame bytes =>
    obtain ⟨hfits, hbytes, rfl⟩ := bytes_of_decodeFrame h
    exact ⟨classOf_instr_wellFormed hfits, by rw [encode_instr, hbytes]⟩

/-- Settles O12: each code is computed. -/
theorem wordsWrittenOutDecode : Obligations.WordsWrittenOutDecode := by
  refine ⟨rfl, rfl, rfl, rfl, ?_, ?_⟩ <;> decide

end Sys2Proof.Proofs.Codes
end

section
/-! SUPPORT. What any instruction can do, said once: it gives a next state, and that state is one of a few kinds, each
written over the shared updates. Properties of every step are case analyses of these kinds. -/

namespace Sys2Proof.Machine

open Sys2Proof.Laws.EncodeShape

/-! ## Events -/

/-- Between the two states event bits are set, and no other bit of STATUS changes (10_state.md R30). -/
def EventsSet (s t : State) : Prop :=
  ∃ e : Half, e &&& 0xF000 = 0 ∧ t.status = s.status ||| e

theorem EventsSet.of_eq {s t : State} (h : t.status = s.status) : EventsSet s t :=
  ⟨0, rfl, h.trans BitVec.or_zero.symm⟩

theorem EventsSet.trans {s t u : State} (hst : EventsSet s t) (htu : EventsSet t u) : EventsSet s u := by
  obtain ⟨d, hd, hds⟩ := hst
  obtain ⟨e, he, hes⟩ := htu
  refine ⟨d ||| e, ?_, by rw [hes, hds, BitVec.or_assoc]⟩
  rw [BitVec.and_or_distrib_right, hd, he]
  rfl

theorem eventsSet_setEvent (e : Event) (s : State) : EventsSet s (setEvent e s) :=
  ⟨e.mask, by cases e <;> rfl, rfl⟩

theorem eventsSet_setEventIf (c : Bool) (e : Event) (s : State) : EventsSet s (setEventIf c e s) := by
  cases c with
  | false => exact .of_eq rfl
  | true => exact eventsSet_setEvent e s

/-! ## The receive side -/

/-- The second state differs from the first in receive-side items and set events only (40_framer.md). -/
structure RxOnly (s t : State) : Prop where
  frame : t = { s with
    fstate := t.fstate, rxBuf := t.rxBuf, rxCount := t.rxCount, rxStart := t.rxStart, rxDone := t.rxDone
    retained := t.retained, noiseLast := t.noiseLast, status := t.status }
  events : EventsSet s t

namespace RxOnly

variable {s t : State}

theorem refl (s : State) : RxOnly s s := ⟨rfl, .of_eq rfl⟩

theorem resetRx (h : RxOnly s t) : RxOnly s (resetRx t) := ⟨congrArg Machine.resetRx h.frame, h.events⟩

theorem setFState (f : FState) (h : RxOnly s t) : RxOnly s (setFState f t) :=
  ⟨congrArg (Machine.setFState f) h.frame, h.events⟩

theorem appendRx (b : Byte) (h : RxOnly s t) : RxOnly s (appendRx b t) :=
  ⟨congrArg (Machine.appendRx b) h.frame, h.events⟩

theorem setNoiseLast (n : Nat) (h : RxOnly s t) : RxOnly s (setNoiseLast n t) :=
  ⟨congrArg (Machine.setNoiseLast n) h.frame, h.events⟩

theorem stampStart (h : RxOnly s t) : RxOnly s (stampStart t) := ⟨by rw [h.frame]; rfl, h.events⟩

theorem stampDone (h : RxOnly s t) : RxOnly s (stampDone t) := ⟨by rw [h.frame]; rfl, h.events⟩

theorem setEvent (e : Event) (h : RxOnly s t) : RxOnly s (setEvent e t) :=
  ⟨congrArg (Machine.setEvent e) h.frame, h.events.trans (eventsSet_setEvent e t)⟩

end RxOnly

theorem rxOnly_checkTimeout (s : State) : RxOnly s (checkTimeout s) := by
  obtain ⟨-, -, e⟩ | ⟨-, e⟩ := checkTimeout_cases s <;> rw [e]
  · exact (((RxOnly.refl s).setEvent .rxTimeout).resetRx).setFState .hunt
  · exact .refl s

theorem RxOnly.startFrame {s t : State} (h : RxOnly s t) : RxOnly s (startFrame t) := by
  unfold Machine.startFrame
  split
  · exact (((((h.setNoiseLast t.rxCount).setEvent .noiseFlush).resetRx).appendRx _).stampStart).setFState .recv
  · exact ((h.resetRx.appendRx _).stampStart).setFState .recv

theorem RxOnly.huntByte {s t : State} (b : Byte) (h : RxOnly s t) : RxOnly s (huntByte b t) := by
  obtain ⟨u, hu, hcases⟩ := huntByte_cases b t
  have hfree : RxOnly s u := by
    rw [hu]
    split
    · exact h.resetRx
    · exact h
  obtain ⟨-, e⟩ | ⟨-, -, e⟩ | ⟨-, -, e⟩ := hcases <;> rw [e]
  · exact hfree.startFrame
  · exact (((hfree.appendRx b).setNoiseLast 34).setEvent .noiseOvf).resetRx
  · exact hfree.appendRx b

theorem RxOnly.recvByte {s t : State} (b : Byte) (h : RxOnly s t) : RxOnly s (recvByte b t) := by
  obtain ⟨-, e⟩ | ⟨-, -, e⟩ | ⟨-, -, e⟩ := recvByte_cases b t <;> rw [e]
  · exact ((h.appendRx b).setFState .parsing).stampDone
  · exact (((h.appendRx b).setEvent .overflow).resetRx).setFState .hunt
  · exact h.appendRx b

/-- An accepted byte touches the receive side and the events only (40_framer.md R112). -/
theorem rxOnly_acceptByte (b : Byte) (s : State) : RxOnly s (acceptByte b s) := by
  simp only [acceptByte]
  split
  · exact (rxOnly_checkTimeout s).huntByte b
  · exact (rxOnly_checkTimeout s).recvByte b

/-! ## The frame classes -/

/-- What the class of a frame does between FRAME_OK and the end of PARSE, with its code (42_decode.md R161 to
R181). -/
inductive ClassOutcome : FrameClass → Frame → ParseCode → (State → State) → Prop
  | pings (f : Frame) : ClassOutcome .ping f .ping answerPing
  | decodesSmall (f : Frame) (long : 15 ≤ f.body.length) : ClassOutcome .infoSmall f .small (decodeSmall f.body)
  | decodesBig (k : FrameClass) (f : Frame) (big : k = .infoBig ∨ k = .infoPeriodic) (long : 24 ≤ f.body.length) :
      ClassOutcome k f .big (decodeBig f.body)
  | ignores (k : FrameClass) (f : Frame) (c : ParseCode) (ignored : c.isIgnored = true) : ClassOutcome k f c id

/-- Each class has one outcome, in every state. -/
theorem exec_instr (k : FrameClass) (f : Frame) :
    ∃ c effect, ClassOutcome k f c effect ∧ ∀ s, exec (k.instr f) s = .next (parsed c effect s) := by
  cases k with
  | ping => exact ⟨_, _, .pings f, fun _ => rfl⟩
  | infoSmall =>
    by_cases h : f.body.length < 15
    · exact ⟨_, _, .ignores _ f .short rfl, fun _ => if_pos h⟩
    · exact ⟨_, _, .decodesSmall f (Nat.not_lt.mp h), fun _ => if_neg h⟩
  | infoBig =>
    by_cases h : f.body.length < 24
    · exact ⟨_, _, .ignores _ f .short rfl, fun _ => if_pos h⟩
    · exact ⟨_, _, .decodesBig _ f (.inl rfl) (Nat.not_lt.mp h), fun _ => if_neg h⟩
  | infoPeriodic =>
    by_cases h : f.body.length < 24
    · exact ⟨_, _, .ignores _ f .short rfl, fun _ => if_pos h⟩
    · exact ⟨_, _, .decodesBig _ f (.inr rfl) (Nat.not_lt.mp h), fun _ => if_neg h⟩
  | command => exact ⟨_, _, .ignores _ f .cmdDiscard rfl, fun _ => rfl⟩
  | infoSetpEcho => exact ⟨_, _, .ignores _ f .setpEcho rfl, fun _ => rfl⟩
  | infoOther => exact ⟨_, _, .ignores _ f .infoUnknown rfl, fun _ => rfl⟩
  | infoShort => exact ⟨_, _, .ignores _ f .short rfl, fun _ => rfl⟩
  | init | unknownVendor | otherType => exact ⟨_, _, .ignores _ f .typeIgnored rfl, fun _ => rfl⟩

/-- A frame's class is run: by its instruction, or by a PARSE of a complete frame that passes Verify (42_decode.md
R160). -/
def RunsClass (i : Instr) (s : State) (k : FrameClass) (f : Frame) : Prop :=
  i = k.instr f ∨ (i = .parse ∧ s.fstate = .parsing ∧ csumMatches s.rxBuf.toList = true)

/-! ## Every instruction -/

/-- The kinds of next state an instruction can give. -/
inductive Effect (i : Instr) (s : State) : State → Prop
  /-- a `result` and nothing else -/
  | answers (r : Half) : Effect i s (finish r s)
  /-- an operation error -/
  | errs (c : OpErrCause) : Effect i s (raiseOpErr c s)
  /-- RXB, TICK, RXCLR -/
  | receives (isFramer : isFramerOp i = true) (r : Half) (t : State) (rx : RxOnly s t) : Effect i s (finish r t)
  /-- PARSE of a frame that fails Verify -/
  | drops : Effect i s (dropBadChecksum s)
  /-- a frame class -/
  | classifies (k : FrameClass) (f : Frame) (c : ParseCode) (effect : State → State)
      (outcome : ClassOutcome k f c effect) (runs : RunsClass i s k f) : Effect i s (parsed c effect s)
  /-- an ENC operation with nothing queued -/
  | builds (bytes : List Byte) (idle : s.txCount = 0) (built : builtBytes bytes.length bytes) :
      Effect i s (finish 0x0001 (loadTx bytes s))
  /-- TXSEND of a queued frame on an idle line -/
  | sends (isSend : i = .txsend) (queued : s.txCount ≠ 0) (hunt : s.fstate = .hunt) (free : s.rxPending = false) :
      Effect i s (sendQueued s)
  /-- TXCLR -/
  | clearsTx : Effect i s (finish 0x0000 (txReset s))
  /-- WR of STATUS -/
  | clearsEvents (d : Half) (isWr : i = .wr 0x00 d) : Effect i s (finish 0x0000 (clearEvents d s))
  /-- WR of IRQ_EN -/
  | enables (d : Half) : Effect i s (finish 0x0000 (writeIrqEn d s))
  /-- WR of CMD_TARGET_TEMP -/
  | requests (d : Half) : Effect i s (finish 0x0000 (writeCmdTargetTemp d s))
  /-- WR of a raw-field override register -/
  | overrides (F : CmdField) (d : Half) : Effect i s (finish 0x0000 (writeCmdRaw F d s))
  /-- CMDCLR -/
  | untouches : Effect i s (finish 0x0000 (clearOverrides s))
  /-- SRST -/
  | resets (isSrst : i = .srst) : Effect i s (finish 0x0000 (softReset s))

/-- An ENC operation of a frame the block builds. -/
theorem encodeIdle_effect {ptype flag : Byte} {body : List Byte} {n : Nat}
    (hbuilt : builtBytes n (builtFrame ptype flag body).bytes) (hn : (builtFrame ptype flag body).bytes.length = n)
    (i : Instr) (s : State) : Effect i s (encodeIdle (buildFrame ptype flag body) s) := by
  obtain ⟨-, e⟩ | ⟨hidle, e⟩ := encodeIdle_cases (buildFrame ptype flag body) s <;> rw [e]
  · exact .errs _
  · exact .builds _ hidle (hn.symm ▸ hbuilt)

/-- The pong is a frame the block builds (43_encode_transmit.md R192). -/
theorem builtBytes_pong : builtBytes 18 (builtFrame 0x01 0x01 pongBody).bytes := .inl ⟨rfl, rfl⟩

/-- So is every set-params frame (43_encode_transmit.md R199). -/
theorem builtBytes_setc (s : State) : builtBytes 25 (builtFrame 0x06 0x00 (setcBody s)).bytes :=
  .inr (.inr ⟨rfl, setcBody s, setcBody_length s, setcBody_take_two s, rfl⟩)

theorem setcFrame_length (s : State) : (builtFrame 0x06 0x00 (setcBody s)).bytes.length = 25 := by
  rw [bytes_length, builtFrame, setcBody_length]

theorem execParse_effect (s : State) : ∃ t, execParse s = .next t ∧ Effect .parse s t := by
  obtain ⟨-, e⟩ | ⟨-, -, e⟩ | ⟨hp, hc, e⟩ := execParse_cases s
  · exact ⟨_, e, .errs _⟩
  · exact ⟨_, e, .drops⟩
  · obtain ⟨c, effect, hout, hexec⟩ := exec_instr (rxFrame s).classOf (rxFrame s)
    exact ⟨_, e.trans ((dispatchFrame_eq_exec _ s).trans (hexec s)), .classifies _ _ c effect hout (.inr ⟨rfl, hp, hc⟩)⟩

theorem execEncSetc_effect (s : State) : ∃ t, execEncSetc s = .next t ∧ Effect .encSetc s t := by
  obtain ⟨-, e⟩ | ⟨-, -, e⟩ | ⟨hidle, -, e⟩ := execEncSetc_cases s
  · exact ⟨_, e, .errs _⟩
  · exact ⟨_, e, .errs _⟩
  · exact ⟨_, e, .builds _ hidle ((setcFrame_length s).symm ▸ builtBytes_setc s)⟩

theorem execTxsend_effect (s : State) : ∃ t, execTxsend s = .next t ∧ Effect .txsend s t := by
  obtain ⟨-, e⟩ | ⟨hq, hf, hr, e⟩ := execTxsend_cases s
  · exact ⟨_, e, .answers _⟩
  · exact ⟨_, e, .sends rfl hq hf hr⟩

theorem execRd_effect (a : Byte) (s : State) : ∃ t, execRd a s = .next t ∧ Effect (.rd a) s t := by
  obtain ⟨r, -, e⟩ | ⟨-, e⟩ := execRd_cases a s
  · exact ⟨_, e, .answers _⟩
  · exact ⟨_, e, .errs _⟩

theorem execWr_effect (a : Byte) (d : Half) (s : State) : ∃ t, execWr a d s = .next t ∧ Effect (.wr a d) s t := by
  obtain ⟨hr, e⟩ | ⟨-, e⟩ | ⟨-, e⟩ | ⟨F, -, e⟩ | e := execWr_cases a d s
  · obtain rfl := regAt_eq_some_iff.mp hr
    exact ⟨_, e, .clearsEvents d rfl⟩
  · exact ⟨_, e, .enables d⟩
  · exact ⟨_, e, .requests d⟩
  · exact ⟨_, e, .overrides F d⟩
  · exact ⟨_, e, .errs _⟩

theorem execRxb_effect (b : Byte) (s : State) : ∃ t, execRxb b s = .next t ∧ Effect (.rxb b) s t := by
  by_cases hp : s.fstate = .parsing
  · exact ⟨_, exec_rxb_of_parsing hp b, .answers _⟩
  · exact ⟨_, exec_rxb_of_ne_parsing hp b, .receives rfl _ _ (rxOnly_acceptByte b s)⟩

/-- Every instruction gives a next state, of one of the kinds. -/
theorem exec_effect (i : Instr) (s : State) : ∃ t, exec i s = .next t ∧ Effect i s t := by
  obtain hop | ⟨k, f, rfl⟩ := instr_cases i
  · cases i with
    | nop => exact ⟨_, rfl, .answers _⟩
    | rxb b => exact execRxb_effect b s
    | tick => exact ⟨_, rfl, .receives rfl _ _ (rxOnly_checkTimeout s)⟩
    | parse => exact execParse_effect s
    | encPong => exact ⟨_, rfl, encodeIdle_effect builtBytes_pong rfl _ s⟩
    | encReqs => exact ⟨_, rfl, encodeIdle_effect (.inr (.inl ⟨rfl, .inl rfl⟩)) rfl _ s⟩
    | encReqb => exact ⟨_, rfl, encodeIdle_effect (.inr (.inl ⟨rfl, .inr rfl⟩)) rfl _ s⟩
    | encSetc => exact execEncSetc_effect s
    | txsend => exact execTxsend_effect s
    | rd a => exact execRd_effect a s
    | wr a d => exact execWr_effect a d s
    | cmdclr => exact ⟨_, rfl, .untouches⟩
    | txclr => exact ⟨_, rfl, .clearsTx⟩
    | rxclr => exact ⟨_, rfl, .receives rfl _ _ ((RxOnly.refl s).resetRx.setFState .hunt)⟩
    | srst => exact ⟨_, rfl, .resets rfl⟩
    | _ => cases hop
  · obtain ⟨c, effect, hout, hexec⟩ := exec_instr k f
    exact ⟨_, hexec s, .classifies k f c effect hout (.inl rfl)⟩

/-- The next state an instruction gives is of one of the kinds. -/
theorem effect_of_exec {i : Instr} {s t : State} (h : exec i s = .next t) : Effect i s t := by
  obtain ⟨u, hu, heffect⟩ := exec_effect i s
  obtain rfl := next_inj (h.symm.trans hu)
  exact heffect

/-! ## Every step -/

/-- What taking a sample keeps, what an operation keeps and what an operation error keeps, every step keeps. -/
theorem step_keeps {P : State → Prop} (hinput : ∀ x rest s, P s → P (takeInput x rest s))
    (hexec : ∀ i s t, isOperation i = true → P s → exec i s = .next t → P t) (herr : ∀ s, P s → P (opErrOf s))
    {s t : State} (h : P s) (hstep : step s = .next t) : P t := by
  obtain ⟨-, e⟩ | ⟨x, rest, -, e⟩ := step_cases s <;> rw [e] at hstep
  · exact next_inj hstep ▸ h
  · have hx := hinput x rest s h
    obtain ⟨i, hi, e⟩ | ⟨-, -, e⟩ := runWord_cases x.word (takeInput x rest s) <;> rw [e] at hstep
    · obtain ⟨hop, -⟩ := encode_of_decodeOp hi
      exact hexec i _ t hop hx hstep
    · exact next_inj hstep ▸ herr _ hx

end Sys2Proof.Machine
end

section
/-! SUPPORT. The port: a word that is not an operation raises OpErr, and the step after a word or a frame is presented
runs it (00_scope.md R5, R8; notes/assumptions/8.md). -/

namespace Sys2Proof.Machine

theorem runWord_of_ok {w : Word} {i : Instr} (h : decodeOp w = .ok i) (s : State) : runWord w s = exec i s := by
  rw [runWord, h]

theorem runWord_of_error {w : Word} {e : DecodeError} (h : decodeOp w = .error e) (s : State) :
    runWord w s = .next (opErrOf s) :=
  runWord_of_not_op (fun i hi => by cases h.symm.trans hi) s

/-- A step takes the next sample and runs its word. -/
theorem step_of_cons {s : State} {x : Input} {rest : List Input} (h : s.inputs = x :: rest) :
    step s = runWord x.word (takeInput x rest s) := by
  obtain ⟨hnil, -⟩ | ⟨y, more, hcons, e⟩ := step_cases s
  · cases h.symm.trans hnil
  · cases h.symm.trans hcons
    exact e

theorem step_of_nil {s : State} (h : s.inputs = []) : step s = .next s := by
  obtain ⟨-, e⟩ | ⟨y, more, hcons, -⟩ := step_cases s
  · exact e
  · cases h.symm.trans hcons

/-- The step after a word is presented runs the word on the state it was presented to. -/
theorem step_presentWord (w : Word) (s : State) : step (presentWord w s) = runWord w s := by
  have htaken : takeInput ⟨w, s.now, s.rxPending⟩ s.inputs (presentWord w s) = s := rfl
  rw [step_of_cons (presentWord_inputs s w), htaken]

theorem tableCode_word (w : Word) : tableCode 32 w.toNat = some (.op w) := by
  simp [tableCode]

theorem tableCode_key (k : Half) : tableCode 16 k.toNat = some (.frame (keyFrame k).bytes) := by
  simp [tableCode]

theorem withFetchWord_word (w : Word) (s : State) : s.withFetchWord 32 w.toNat = presentWord w s := by
  rw [State.withFetchWord, tableCode_word]
  rfl

theorem withFetchWord_key (k : Half) (s : State) :
    s.withFetchWord 16 k.toNat = presentWord parseWord (holdFrame (keyFrame k).bytes s) := by
  rw [State.withFetchWord, tableCode_key]
  rfl

/-- A key's frame fits: its body is empty or as long as its class asks (notes/assumptions/8.md). -/
theorem keyFrame_fits (k : Half) : (keyFrame k).fits = true := by
  simp only [Frame.fits, keyFrame, Config.infoMinLen, Config.smallMinLen, Config.bigMinLen, Config.maxBody]
  split_ifs <;> simp

end Sys2Proof.Machine
end

section
/-! PROOFS. The step and the port: O3, O4, O5 and O6. -/

namespace Sys2Proof.Proofs.Port

open Sys2Proof.Machine

/-- Settles O3: the next sample's word by its decoding, and no sample. -/
theorem stepRunsTheDecodedInstruction : Obligations.StepRunsTheDecodedInstruction := fun _ =>
  ⟨fun _ _ _ hin hi => (step_of_cons hin).trans (runWord_of_ok hi _),
    fun _ _ _ hin he => (step_of_cons hin).trans (runWord_of_error he _), step_of_nil⟩

/-- Settles O4: neither waiting, nor an instruction, nor an illegal word stops the block. -/
theorem noStepEverStops : Obligations.NoStepEverStops := by
  intro s
  obtain ⟨-, e⟩ | ⟨x, rest, -, e⟩ := step_cases s
  · exact ⟨s, e⟩
  · obtain ⟨i, -, hrun⟩ | ⟨-, -, hrun⟩ := runWord_cases x.word (takeInput x rest s)
    · obtain ⟨t, ht, -⟩ := exec_effect i (takeInput x rest s)
      exact ⟨t, e.trans (hrun.trans ht)⟩
    · exact ⟨_, e.trans hrun⟩

/-- Settles O5: the presented word is the next sample's, and taking that sample gives the state back. -/
theorem presentedWordRunsNext : Obligations.PresentedWordRunsNext := by
  intro s w
  rw [decodeTableWord, tableCode_word, withFetchWord_word, step_presentWord]
  refine ⟨fun i hi => ⟨?_, runWord_of_ok hi s⟩, fun e he => ⟨?_, runWord_of_error he s⟩⟩
  · rw [Option.bind_some, decode, hi]
    rfl
  · rw [Option.bind_some, decode, he]
    rfl

/-- Settles O6: the key's frame fits, so its bytes decode to its class, and PARSE of them runs that class. -/
theorem presentedKeyRunsItsFrame : Obligations.PresentedKeyRunsItsFrame := by
  intro s k
  refine ⟨_, ?_, rfl, ?_⟩
  · rw [decodeTableWord, tableCode_key, Option.bind_some, decode_bytes (keyFrame_fits k)]
    rfl
  · rw [withFetchWord_key, step_presentWord, runWord_of_ok (i := .parse) rfl]
    exact exec_parse_holdFrame (keyFrame_fits k) s

end Sys2Proof.Proofs.Port
end

section
/-! SUPPORT. Sides of a state that few instructions touch, each with what every instruction does to it: STATUS and the
event bits, the transmit side, the small-status and the big-status registers, the host's registers. -/

namespace Sys2Proof.Machine

/-! ## The end of PARSE -/

/-- What PARSE leaves of a frame that passed Verify: the class's effect on the state with FRAME_OK set, and the items
the end of PARSE writes (42_decode.md R160). -/
theorem parsed_eq (c : ParseCode) (effect : State → State) (s : State) :
    parsed c effect s =
      { effect (setEvent .frameOk s) with
        status := if c.isIgnored then (effect (setEvent .frameOk s)).status ||| 0x0100
          else (effect (setEvent .frameOk s)).status
        parseResult := c, retained := true, fstate := .hunt, result := c.number, tx := none } := by
  simp only [parsed, endParse, setEventIf]
  split <;> rfl

theorem eventsSet_answerPing (s : State) : EventsSet s (answerPing s) := by
  obtain ⟨-, e⟩ | ⟨-, e⟩ := answerPing_cases s <;> rw [e]
  · exact (eventsSet_setEvent .pingRx s).trans (.of_eq rfl)
  · exact (eventsSet_setEvent .pingRx s).trans (eventsSet_setEvent .pongDrop _)

theorem ClassOutcome.eventsSet {k : FrameClass} {f : Frame} {c : ParseCode} {effect : State → State}
    (h : ClassOutcome k f c effect) (s : State) : EventsSet s (effect s) := by
  cases h with
  | pings => exact eventsSet_answerPing s
  | decodesSmall => exact EventsSet.trans (.of_eq rfl) (eventsSet_setEventIf _ .changed (writeSmall f.body s))
  | decodesBig => exact EventsSet.trans (.of_eq rfl) (eventsSet_setEventIf _ .changed (writeBig f.body s))
  | ignores => exact .of_eq rfl

/-- A PARSE that passes Verify sets FRAME_OK and its class's events (42_decode.md R160). -/
theorem ClassOutcome.eventsSet_parsed {k : FrameClass} {f : Frame} {c : ParseCode} {effect : State → State}
    (h : ClassOutcome k f c effect) (s : State) : EventsSet (setEvent .frameOk s) (parsed c effect s) := by
  refine (h.eventsSet _).trans ?_
  rw [parsed_eq]
  cases c.isIgnored with
  | false => exact .of_eq rfl
  | true => exact ⟨0x0100, rfl, rfl⟩

/-! ## STATUS -/

/-- What becomes of STATUS: events are set, or a WR clears some, or SRST clears all (10_state.md R30). -/
theorem Effect.status_cases {i : Instr} {s t : State} (h : Effect i s t) :
    EventsSet s t ∨ (∃ d, i = .wr 0x00 d ∧ t.status = s.status &&& ~~~(d &&& eventBits))
      ∨ (i = .srst ∧ t.status = 0) := by
  cases h with
  | errs => exact .inl (eventsSet_setEvent .opErr s)
  | receives _ _ u rx => exact .inl (rx.events.trans (.of_eq rfl))
  | drops => exact .inl ((eventsSet_setEvent .csumErr s).trans (.of_eq rfl))
  | classifies _ _ _ _ outcome => exact .inl ((eventsSet_setEvent .frameOk s).trans (outcome.eventsSet_parsed s))
  | sends => exact .inl ((eventsSet_setEvent .txDone s).trans (.of_eq rfl))
  | clearsEvents d isWr => exact .inr (.inl ⟨d, isWr, rfl⟩)
  | resets isSrst => exact .inr (.inr ⟨isSrst, rfl⟩)
  | answers | builds | clearsTx | enables | requests | overrides | untouches => exact .inl (.of_eq rfl)

/-- An event bit that is set stays set where events are only set. -/
theorem EventsSet.getLsbD {s t : State} (h : EventsSet s t) {k : Nat} (hk : s.status.getLsbD k = true) :
    t.status.getLsbD k = true := by
  obtain ⟨e, -, he⟩ := h
  rw [he, BitVec.getLsbD_or, hk, Bool.true_or]

/-! ## The `tx` event -/

/-- Only a send ends with a `tx` event (43_encode_transmit.md R205). -/
theorem Effect.tx_cases {i : Instr} {s t : State} (h : Effect i s t) :
    t.tx = none ∨ (i = .txsend ∧ s.txCount ≠ 0 ∧ s.fstate = .hunt ∧ s.rxPending = false
      ∧ t.tx = some (queuedBytes s)) := by
  cases h with
  | sends isSend queued hunt free => exact .inr ⟨isSend, queued, hunt, free, rfl⟩
  | _ => exact .inl rfl

/-! ## The transmit side -/

/-- What becomes of the transmit side: nothing, or it is emptied, or a frame the block builds is queued in it. -/
theorem Effect.tx_side_cases {i : Instr} {s t : State} (h : Effect i s t) :
    (t.txBuf = s.txBuf ∧ t.txCount = s.txCount) ∨ (t.txBuf = txEmptyBuf ∧ t.txCount = 0)
      ∨ ∃ bytes, s.txCount = 0 ∧ builtBytes bytes.length bytes ∧ t.txBuf = blit s.txBuf 0 bytes
          ∧ t.txCount = bytes.length := by
  cases h with
  | receives _ _ u rx => exact .inl ⟨by rw [rx.frame]; rfl, by rw [rx.frame]; rfl⟩
  | classifies _ _ c effect outcome =>
    rw [parsed_eq]
    cases outcome with
    | pings =>
      obtain ⟨hidle, e⟩ | ⟨-, e⟩ := answerPing_cases (setEvent .frameOk s) <;> rw [e]
      · exact .inr (.inr ⟨(builtFrame 0x01 0x01 pongBody).bytes, hidle, builtBytes_pong, rfl, rfl⟩)
      · exact .inl ⟨rfl, rfl⟩
    | decodesSmall | decodesBig => exact .inl ⟨setEventIf_txBuf _ _ _, setEventIf_txCount _ _ _⟩
    | ignores => exact .inl ⟨rfl, rfl⟩
  | builds bytes idle built => exact .inr (.inr ⟨bytes, idle, built, rfl, rfl⟩)
  | sends | clearsTx | resets => exact .inr (.inl ⟨rfl, rfl⟩)
  | _ => exact .inl ⟨rfl, rfl⟩

theorem builtBytes.bounds {n : Nat} {bytes : List Byte} (h : builtBytes n bytes) : 12 ≤ n ∧ n ≤ 25 := by
  obtain ⟨rfl, -⟩ | ⟨rfl, -⟩ | ⟨rfl, -⟩ := h <;> decide

/-- With TX_COUNT 0 the transmit side is empty: no frame the block builds has no bytes. -/
theorem TxInv.txBuf_of_idle {s : State} (h : TxInv s) (hidle : s.txCount = 0) : s.txBuf = txEmptyBuf := by
  obtain ⟨-, hbuf⟩ | ⟨hbuilt, -⟩ := h
  · exact hbuf
  · have := hbuilt.bounds
    omega

theorem TxInv.effect {i : Instr} {s t : State} (hinv : TxInv s) (h : Effect i s t) : TxInv t := by
  obtain ⟨hbuf, hcount⟩ | ⟨hbuf, hcount⟩ | ⟨bytes, hidle, hbuilt, hbuf, hcount⟩ := h.tx_side_cases
  · unfold TxInv queuedBytes at *
    rwa [hbuf, hcount]
  · exact .inl ⟨hcount, hbuf⟩
  · obtain ⟨hmin, hmax⟩ := hbuilt.bounds
    rw [hinv.txBuf_of_idle hidle] at hbuf
    refine .inr ⟨?_, fun j hj hle => ?_⟩
    · rwa [queuedBytes, hbuf, hcount, blit_toList_take _ (by omega)]
    · rw [hcount] at hle
      simp only [hbuf]
      rw [blit_getElem_outside (by omega), txEmptyBuf_getElem, if_neg (by omega), if_neg (by omega)]
      rfl

/-! ## The AC state -/

/-- The registers a small-status decode writes (42_decode.md R175). -/
def State.smallSide (s : State) : Half × AcRaw × Vector Byte 13 × Bool :=
  (s.acTargetTemp, s.acRaw, s.lastSmall, s.smallValid)

/-- The registers a big-status decode writes (42_decode.md R180). -/
def State.bigSide (s : State) : Half × Half × Bool :=
  (s.acAmbient, s.acOutdoor, s.bigValid)

/-- What becomes of the AC registers: nothing, or SRST, or the decode of a status long enough. -/
theorem Effect.ac_cases {i : Instr} {s t : State} (h : Effect i s t) :
    (t.smallSide = s.smallSide ∧ t.bigSide = s.bigSide)
      ∨ (i = .srst ∧ t.smallSide = State.reset.smallSide ∧ t.bigSide = State.reset.bigSide)
      ∨ (∃ f, 15 ≤ f.body.length ∧ RunsClass i s .infoSmall f ∧ t = parsed .small (decodeSmall f.body) s)
      ∨ (∃ k f, (k = .infoBig ∨ k = .infoPeriodic) ∧ 24 ≤ f.body.length ∧ RunsClass i s k f
          ∧ t = parsed .big (decodeBig f.body) s) := by
  cases h with
  | receives _ _ u rx => exact .inl (by rw [rx.frame]; simp [State.smallSide, State.bigSide])
  | classifies k f c effect outcome runs =>
    cases outcome with
    | pings =>
      obtain ⟨-, e⟩ | ⟨-, e⟩ := answerPing_cases (setEvent .frameOk s) <;>
        exact .inl (by simp [parsed_eq, e, State.smallSide, State.bigSide])
    | decodesSmall _ long => exact .inr (.inr (.inl ⟨f, long, runs, rfl⟩))
    | decodesBig _ _ big long => exact .inr (.inr (.inr ⟨k, f, big, long, runs, rfl⟩))
    | ignores => exact .inl (by simp [parsed_eq, State.smallSide, State.bigSide])
  | resets isSrst => exact .inr (.inl ⟨isSrst, by simp [State.smallSide, State.bigSide]⟩)
  | _ => exact .inl (by simp [State.smallSide, State.bigSide, dropBadChecksum, sendQueued])

/-- A small-status decode leaves its body's values and nothing of the big status. -/
theorem parsed_decodeSmall_sides (b : List Byte) (s : State) :
    (parsed .small (decodeSmall b) s).smallSide = (writeSmall b s).smallSide
      ∧ (parsed .small (decodeSmall b) s).bigSide = s.bigSide := by
  simp [parsed_eq, State.smallSide, State.bigSide, decodeSmall]

/-- A big-status decode leaves its body's values and nothing of the small status. -/
theorem parsed_decodeBig_sides (b : List Byte) (s : State) :
    (parsed .big (decodeBig b) s).smallSide = s.smallSide
      ∧ (parsed .big (decodeBig b) s).bigSide = (writeBig b s).bigSide := by
  simp [parsed_eq, State.smallSide, State.bigSide, decodeBig]

/-! ## The host's registers -/

/-- The registers only the host writes: IRQ_EN and the overrides (10_state.md R31, R41, R42). -/
def State.hostSide (s : State) : Half × Half × CmdRaw :=
  (s.irqEn, s.cmdTargetTemp, s.cmdRaw)

theorem ClassOutcome.hostSide {k : FrameClass} {f : Frame} {c : ParseCode} {effect : State → State}
    (h : ClassOutcome k f c effect) (s : State) : (effect s).hostSide = s.hostSide := by
  cases h with
  | pings => obtain ⟨-, e⟩ | ⟨-, e⟩ := answerPing_cases s <;> simp [e, State.hostSide]
  | decodesSmall => simp [State.hostSide, decodeSmall]
  | decodesBig => simp [State.hostSide, decodeBig]
  | ignores => rfl

theorem parsed_hostSide {k : FrameClass} {f : Frame} {c : ParseCode} {effect : State → State}
    (h : ClassOutcome k f c effect) (s : State) : (parsed c effect s).hostSide = s.hostSide :=
  Eq.trans (by rw [parsed_eq]; rfl) (h.hostSide (setEvent .frameOk s))

/-- What becomes of the host's registers: nothing, or one of the writes of 44_register_ops.md R223, or CMDCLR, or
SRST. -/
theorem Effect.host_cases {i : Instr} {s t : State} (h : Effect i s t) :
    t.hostSide = s.hostSide ∨ (∃ d, t.hostSide = (writeIrqEn d s).hostSide)
      ∨ (∃ d, t.hostSide = (writeCmdTargetTemp d s).hostSide)
      ∨ (∃ F d, t.hostSide = (writeCmdRaw F d s).hostSide) ∨ t.hostSide = (clearOverrides s).hostSide
      ∨ t.hostSide = State.reset.hostSide := by
  cases h with
  | receives _ _ u rx => exact .inl (by rw [rx.frame]; simp [State.hostSide])
  | classifies _ _ _ _ outcome => exact .inl (parsed_hostSide outcome s)
  | enables d => exact .inr (.inl ⟨d, by simp [State.hostSide]⟩)
  | requests d => exact .inr (.inr (.inl ⟨d, by simp [State.hostSide]⟩))
  | overrides F d => exact .inr (.inr (.inr (.inl ⟨F, d, by simp [State.hostSide]⟩)))
  | untouches => exact .inr (.inr (.inr (.inr (.inl (by simp [State.hostSide])))))
  | resets => exact .inr (.inr (.inr (.inr (.inr (by simp [State.hostSide])))))
  | _ => exact .inl (by simp [State.hostSide, dropBadChecksum, sendQueued])

end Sys2Proof.Machine
end

section
/-! SUPPORT. The AC and the register invariant as what each side of the state must satisfy, with the updates that
establish it (43_encode_transmit.md R195, 42_decode.md R182; 10_state.md R30, R31, R42). -/

namespace Sys2Proof.Machine

/-! ## The invariant of the AC state -/

/-- What the AC invariant says of the small-status registers (43_encode_transmit.md R195). -/
def SmallInv (s : State) : Prop :=
  (∀ f : RawField, (s.acRaw.get f).toNat = (getField (lastBody s) (Config.layout f)).toNat)
    ∧ (s.smallValid = true → s.acTargetTemp.toNat = targetTenths (lastBody s))

/-- What the AC invariant says of the two temperatures (42_decode.md R182). -/
def BigInv (s : State) : Prop :=
  (-320 ≤ s.acAmbient.toInt ∧ s.acAmbient.toInt ≤ 2485)
    ∧ (-320 ≤ s.acOutdoor.toInt ∧ s.acOutdoor.toInt ≤ 2230 ∧ s.acOutdoor.toInt % 10 = 0)

theorem acInv_iff (s : State) : AcInv s ↔ SmallInv s ∧ BigInv s :=
  and_assoc.symm

theorem SmallInv.congr {s t : State} (h : t.smallSide = s.smallSide) (hinv : SmallInv s) : SmallInv t := by
  simp only [State.smallSide, Prod.mk.injEq] at h
  obtain ⟨htarget, hraw, hlast, hvalid⟩ := h
  unfold SmallInv lastBody at *
  rwa [htarget, hraw, hlast, hvalid]

theorem BigInv.congr {s t : State} (h : t.bigSide = s.bigSide) (hinv : BigInv s) : BigInv t := by
  simp only [State.bigSide, Prod.mk.injEq] at h
  obtain ⟨hambient, houtdoor, -⟩ := h
  unfold BigInv at *
  rwa [hambient, houtdoor]

@[simp] theorem rawFields_get (b : List Byte) (f : RawField) :
    (rawFields b).get f = (getField b (Config.layout f)).setWidth 16 := by
  cases f <;> rfl

/-- Behind the two code bytes stands LAST_SMALL. -/
theorem lastBody_getD (s : State) {j : Nat} (h : j < 13) : (lastBody s).getD (j + 2) 0x00 = s.lastSmall[j] :=
  setcBase_getD s h

/-- LAST_SMALL keeps the body bytes a field can lie in (42_decode.md R170, R175). -/
theorem lastBody_writeSmall_getD (b : List Byte) (s : State) {j : Nat} (h2 : 2 ≤ j) (h14 : j ≤ 14) :
    (lastBody (writeSmall b s)).getD j 0x00 = b.getD j 0x00 := by
  obtain ⟨k, rfl⟩ := Nat.exists_eq_add_of_le' h2
  rw [lastBody_getD _ (by omega)]
  simp only [writeSmall_lastSmall, Vector.getElem_ofFn]

theorem getField_lastBody_writeSmall (b : List Byte) (s : State) {p : FieldPos} (h2 : 2 ≤ p.byte) (h14 : p.byte ≤ 14) :
    getField (lastBody (writeSmall b s)) p = getField b p :=
  getField_congr (lastBody_writeSmall_getD b s h2 h14)

/-- The target temperature by its two bytes (42_decode.md R173). -/
theorem targetTenths_eq (b : List Byte) :
    targetTenths b = (8 + (b.getD 2 0x00).toNat / 8) * 10 + 5 * ((b.getD 5 0x00).toNat / 128) := by
  rw [targetTenths, getField_ttInt_toNat, getField_ttHalf_toNat]

theorem targetTenths_bounds (b : List Byte) : 80 ≤ targetTenths b ∧ targetTenths b ≤ 395 := by
  rw [targetTenths_eq]
  omega

/-- A decoded target temperature fits its register (42_decode.md R173). -/
theorem targetTenths_toNat (b : List Byte) : (BitVec.ofNat 16 (targetTenths b)).toNat = targetTenths b := by
  obtain ⟨-, hmax⟩ := targetTenths_bounds b
  exact Nat.mod_eq_of_lt (by omega)

theorem smallInv_writeSmall (b : List Byte) (s : State) : SmallInv (writeSmall b s) := by
  refine ⟨fun f => ?_, fun _ => ?_⟩
  · obtain ⟨h2, h14, -⟩ := Config.layout_bounds f
    rw [getField_lastBody_writeSmall b s h2 h14, writeSmall_acRaw, rawFields_get]
    exact BitVec.toNat_setWidth_of_le (by decide)
  · rw [writeSmall_acTargetTemp, targetTenths_toNat, targetTenths_eq, targetTenths_eq,
      lastBody_writeSmall_getD b s (by decide) (by decide), lastBody_writeSmall_getD b s (by decide) (by decide)]

theorem ambientTenths_bounds (b : List Byte) : -320 ≤ ambientTenths b ∧ ambientTenths b ≤ 2485 := by
  rw [ambientTenths]
  omega

theorem outdoorTenths_bounds (b : List Byte) : -320 ≤ outdoorTenths b ∧ outdoorTenths b ≤ 2230 := by
  rw [outdoorTenths]
  omega

/-- A decoded ambient temperature fits its register (42_decode.md R180, R182). -/
theorem ambientTenths_toInt (b : List Byte) : (BitVec.ofInt 16 (ambientTenths b)).toInt = ambientTenths b := by
  obtain ⟨hmin, hmax⟩ := ambientTenths_bounds b
  exact BitVec.toInt_ofInt_eq_self (by decide) (by omega) (by omega)

/-- So does a decoded outdoor temperature. -/
theorem outdoorTenths_toInt (b : List Byte) : (BitVec.ofInt 16 (outdoorTenths b)).toInt = outdoorTenths b := by
  obtain ⟨hmin, hmax⟩ := outdoorTenths_bounds b
  exact BitVec.toInt_ofInt_eq_self (by decide) (by omega) (by omega)

theorem bigInv_writeBig (b : List Byte) (s : State) : BigInv (writeBig b s) := by
  unfold BigInv
  rw [writeBig_acAmbient, writeBig_acOutdoor, ambientTenths_toInt, outdoorTenths_toInt]
  obtain ⟨hmin, hmax⟩ := outdoorTenths_bounds b
  exact ⟨ambientTenths_bounds b, hmin, hmax, Int.mul_emod_left _ _⟩

/-- Every field of a body of zeros is 0. -/
theorem getField_lastBody_reset (p : FieldPos) : getField (lastBody .reset) p = 0#8 := by
  have hzero : (lastBody .reset).getD p.byte 0x00 = 0#8 := by
    have hbody : lastBody .reset = List.replicate 15 0x00 := rfl
    rw [hbody, List.getD_eq_getElem?_getD, List.getElem?_replicate]
    split <;> rfl
  rw [getField, hzero, BitVec.zero_ushiftRight, BitVec.zero_and]

theorem smallInv_reset : SmallInv .reset := by
  refine ⟨fun f => ?_, fun h => by cases h⟩
  have hraw : State.reset.acRaw.get f = 0#16 := AcRaw.get_zero f
  rw [getField_lastBody_reset, hraw]
  rfl

theorem bigInv_reset : BigInv .reset := by
  unfold BigInv
  decide

/-- A step's operation keeps the AC registers those of LAST_SMALL: a decode writes both from one body. -/
theorem AcInv.effect {i : Instr} {s t : State} (hinv : AcInv s) (h : Effect i s t) : AcInv t := by
  rw [acInv_iff] at *
  obtain ⟨hs, hb⟩ := hinv
  obtain ⟨hs', hb'⟩ | ⟨-, hs', hb'⟩ | ⟨f, -, -, rfl⟩ | ⟨k, f, -, -, -, rfl⟩ := h.ac_cases
  · exact ⟨hs.congr hs', hb.congr hb'⟩
  · exact ⟨smallInv_reset.congr hs', bigInv_reset.congr hb'⟩
  · obtain ⟨hs', hb'⟩ := parsed_decodeSmall_sides f.body s
    exact ⟨(smallInv_writeSmall f.body s).congr hs', hb.congr hb'⟩
  · obtain ⟨hs', hb'⟩ := parsed_decodeBig_sides f.body s
    exact ⟨hs.congr hs', (bigInv_writeBig f.body s).congr hb'⟩

/-! ## The register invariant -/

/-- What the register invariant says of the host's registers (10_state.md R31, R42). -/
def HostInv (s : State) : Prop :=
  s.irqEn &&& 0xF000 = 0 ∧ ∀ F : CmdField, (s.cmdRaw.get F).value.toNat < 2 ^ (Config.layout F.raw).width

theorem HostInv.congr {s t : State} (h : t.hostSide = s.hostSide) (hinv : HostInv s) : HostInv t := by
  simp only [State.hostSide, Prod.mk.injEq] at h
  obtain ⟨hirq, -, hcmd⟩ := h
  unfold HostInv at *
  rwa [hirq, hcmd]

/-- A value that was cut to bits 11:0 has none above. -/
theorem eventBits_reserved (d : Half) : d &&& eventBits &&& 0xF000 = 0 := by
  rw [BitVec.and_assoc]
  exact BitVec.and_zero

theorem untouched_fits (F : CmdField) :
    (CmdRaw.untouched.get F).value.toNat < 2 ^ (Config.layout F.raw).width := by
  rw [CmdRaw.get_untouched]
  exact Nat.two_pow_pos _

/-- A write of an override register stores a value of its field's width (10_state.md R42). -/
theorem writeCmdRaw_fits {s : State}
    (h : ∀ G : CmdField, (s.cmdRaw.get G).value.toNat < 2 ^ (Config.layout G.raw).width)
    (F : CmdField) (d : Half) (G : CmdField) :
    ((writeCmdRaw F d s).cmdRaw.get G).value.toNat < 2 ^ (Config.layout G.raw).width := by
  rw [writeCmdRaw_cmdRaw, CmdRaw.get_set]
  split_ifs with hG
  · rw [hG, cut_toNat]
    exact Nat.mod_lt _ (Nat.two_pow_pos _)
  · exact h G

theorem HostInv.effect {i : Instr} {s t : State} (hinv : HostInv s) (h : Effect i s t) : HostInv t := by
  obtain ⟨hirq, hcmd⟩ := hinv
  obtain e | ⟨d, e⟩ | ⟨d, e⟩ | ⟨F, d, e⟩ | e | e := h.host_cases
  · exact .congr e ⟨hirq, hcmd⟩
  · exact .congr e ⟨eventBits_reserved d, hcmd⟩
  · exact .congr e ⟨hirq, hcmd⟩
  · exact .congr e ⟨hirq, writeCmdRaw_fits hcmd F d⟩
  · exact .congr e ⟨hirq, untouched_fits⟩
  · exact .congr e ⟨rfl, untouched_fits⟩

/-- The reserved bits of STATUS stay 0: no event is one of them. -/
theorem Effect.status_reserved {i : Instr} {s t : State} (h : Effect i s t) (hs : s.status &&& 0xF000 = 0) :
    t.status &&& 0xF000 = 0 := by
  obtain ⟨e, he, ht⟩ | ⟨d, -, ht⟩ | ⟨-, ht⟩ := h.status_cases <;> rw [ht]
  · rw [BitVec.and_or_distrib_right, hs, he]
    rfl
  · rw [BitVec.and_assoc, BitVec.and_comm _ 0xF000, ← BitVec.and_assoc, hs]
    exact BitVec.zero_and
  · rfl

theorem RegInv.effect {i : Instr} {s t : State} (hinv : RegInv s) (h : Effect i s t) : RegInv t := by
  obtain ⟨hstatus, hhost⟩ := hinv
  exact ⟨h.status_reserved hstatus, HostInv.effect hhost h⟩

theorem regInv_reset : RegInv .reset :=
  ⟨rfl, rfl, untouched_fits⟩

end Sys2Proof.Machine
end

section
/-! SUPPORT. The receive invariant: what it says in each framer state, and the bytes and operations that keep it
(10_state.md R24, R27; 40_framer.md R110 to R126; 44_register_ops.md R222). -/

namespace Sys2Proof.Machine

/-! ## The shape in each framer state -/

theorem rxShape_of_hunt {s : State} (hf : s.fstate = .hunt) (hr : s.retained = false) :
    rxShape s ↔ s.rxCount ≤ 33 := by
  simp [rxShape, hf, hr]

theorem rxShape_of_retained {s : State} (hf : s.fstate = .hunt) (hr : s.retained = true) :
    rxShape s ↔ s.rxBuf[0] = 0xBB ∧ (s.rxBuf[6]).toNat ≤ 24 ∧ s.rxCount = 10 + (s.rxBuf[6]).toNat
      ∧ csumMatches s.rxBuf.toList = true := by
  simp [rxShape, hf, hr]

theorem rxShape_of_recv {s : State} (hf : s.fstate = .recv) :
    rxShape s ↔ s.retained = false ∧ 1 ≤ s.rxCount ∧ s.rxCount ≤ 33 ∧ s.rxBuf[0] = 0xBB
      ∧ (8 ≤ s.rxCount → s.rxCount < 10 + (s.rxBuf[6]).toNat) := by
  simp [rxShape, hf]

theorem rxShape_of_parsing {s : State} (hf : s.fstate = .parsing) :
    rxShape s ↔ s.retained = false ∧ s.rxBuf[0] = 0xBB ∧ (s.rxBuf[6]).toNat ≤ 24
      ∧ s.rxCount = 10 + (s.rxBuf[6]).toNat := by
  simp [rxShape, hf]

/-- The invariant is about the receive side only. -/
theorem RxInv.congr {s t : State} (hinv : RxInv s) (h : t.rxSide = s.rxSide) : RxInv t := by
  simp only [State.rxSide, RxSide.mk.injEq] at h
  obtain ⟨hf, hbuf, hcount, hret, hnoise⟩ := h
  unfold RxInv rxShape at *
  rwa [hf, hbuf, hcount, hret, hnoise]

theorem RxInv.noiseLast_le {s : State} (hinv : RxInv s) : s.noiseLast ≤ 34 := by
  obtain ⟨-, -, hnoise⟩ := hinv
  exact hnoise

/-! ## Emptying and appending -/

/-- An emptied receive side in HUNT meets the invariant (40_framer.md R111). -/
theorem rxInv_of_empty {s : State} (hf : s.fstate = .hunt) (hbuf : s.rxBuf = zeroBuf) (hcount : s.rxCount = 0)
    (hret : s.retained = false) (hnoise : s.noiseLast ≤ 34) : RxInv s := by
  refine ⟨(rxShape_of_hunt hf hret).mpr (by omega), fun i hi _ => ?_, hnoise⟩
  simp only [hbuf]
  exact zeroBuf_getElem hi

/-- A byte stored at the end of what is received leaves zeros beyond it (40_framer.md R117, R118). -/
theorem zeroFrom_append {buf : Buf} {n : Nat} (h : zeroFrom buf n) (b : Byte) :
    zeroFrom (buf.setIfInBounds n b) (n + 1) := by
  intro i hi hle
  rw [setIfInBounds_getElem, if_neg (by omega)]
  exact h i hi (by omega)

/-- A byte stored behind another one leaves it. -/
theorem appendRx_rxBuf_getElem {s : State} {i : Nat} {hi : i < 34} (h : i < s.rxCount) (b : Byte) :
    (appendRx b s).rxBuf[i] = s.rxBuf[i] := by
  simp only [appendRx_rxBuf]
  rw [setIfInBounds_getElem, if_neg (by omega)]

/-! ## Bytes -/

/-- The start of a frame: one byte, the start marker (40_framer.md R116). -/
theorem rxInv_startFrame {s : State} (hcount : s.rxCount ≤ 33) (hnoise : s.noiseLast ≤ 34) : RxInv (startFrame s) := by
  rw [startFrame_eq]
  refine ⟨(rxShape_of_recv rfl).mpr ⟨rfl, Nat.le_refl 1, show 1 ≤ 33 by decide, rfl,
    fun h => absurd h (show ¬ 8 ≤ 1 by decide)⟩, fun i hi hle => ?_, ?_⟩
  · have h1 : 1 ≤ i := hle
    simp only [Vector.getElem_set, Vector.getElem_replicate]
    rw [if_neg (by omega)]
  · show (if 0 < s.rxCount then s.rxCount else s.noiseLast) ≤ 34
    split <;> omega

/-- A hunted byte keeps the invariant (40_framer.md R115 to R117). -/
theorem RxInv.huntByte {s : State} (hinv : RxInv s) (hf : s.fstate = .hunt) (b : Byte) : RxInv (huntByte b s) := by
  obtain ⟨u, hu, hcases⟩ := huntByte_cases b s
  have hfree : u.fstate = .hunt ∧ u.retained = false ∧ RxInv u := by
    rw [hu]
    split_ifs with hr
    · exact ⟨hf, rfl, rxInv_of_empty hf rfl rfl rfl hinv.noiseLast_le⟩
    · exact ⟨hf, Bool.eq_false_iff.mpr hr, hinv⟩
  obtain ⟨huf, hur, hshape, hzero, hnoise⟩ := hfree
  have hcount := (rxShape_of_hunt huf hur).mp hshape
  obtain ⟨-, e⟩ | ⟨-, -, e⟩ | ⟨-, hroom, e⟩ := hcases <;> rw [e]
  · exact rxInv_startFrame hcount hnoise
  · exact rxInv_of_empty huf rfl rfl rfl (Nat.le_refl 34)
  · have hshape' : (appendRx b u).rxCount ≤ 33 := show u.rxCount + 1 ≤ 33 by omega
    exact ⟨(rxShape_of_hunt (s := appendRx b u) huf hur).mpr hshape', zeroFrom_append hzero b, hnoise⟩

/-- The completion test after a frame byte is stored, from the seventh byte on: the length byte is in place
(40_framer.md R118). -/
theorem frameComplete_appendRx_iff {s : State} (h : 7 ≤ s.rxCount) (b : Byte) :
    frameComplete (appendRx b s) = true ↔ s.rxCount + 1 = 10 + (s.rxBuf[6]).toNat := by
  rw [frameComplete_iff, appendRx_rxBuf_getElem (by omega), appendRx_rxCount]
  omega

/-- A frame byte keeps the invariant (40_framer.md R118, R119). -/
theorem RxInv.recvByte {s : State} (hinv : RxInv s) (hf : s.fstate = .recv) (b : Byte) : RxInv (recvByte b s) := by
  obtain ⟨hshape, hzero, hnoise⟩ := hinv
  obtain ⟨hret, hmin, hmax, hsof, hopen⟩ := (rxShape_of_recv hf).mp hshape
  have hsof' : (appendRx b s).rxBuf[0] = 0xBB := (appendRx_rxBuf_getElem (by omega) b).trans hsof
  have hzero' : zeroFrom (appendRx b s).rxBuf (appendRx b s).rxCount := zeroFrom_append hzero b
  obtain ⟨hdone, e⟩ | ⟨-, -, e⟩ | ⟨hdone, hroom, e⟩ := recvByte_cases b s <;> rw [e]
  · obtain ⟨-, hn⟩ := (frameComplete_iff _).mp hdone
    have hle : (appendRx b s).rxCount ≤ 34 := show s.rxCount + 1 ≤ 34 by omega
    have hshape' : (appendRx b s).retained = false ∧ (appendRx b s).rxBuf[0] = 0xBB
        ∧ ((appendRx b s).rxBuf[6]).toNat ≤ 24 ∧ (appendRx b s).rxCount = 10 + ((appendRx b s).rxBuf[6]).toNat :=
      ⟨hret, hsof', by omega, by omega⟩
    exact ⟨(rxShape_of_parsing rfl).mpr hshape', hzero', hnoise⟩
  · exact rxInv_of_empty rfl rfl rfl rfl hnoise
  · refine ⟨(rxShape_of_recv (s := appendRx b s) hf).mpr ⟨hret, show 1 ≤ s.rxCount + 1 by omega,
      show s.rxCount + 1 ≤ 33 by omega, hsof', fun h8 => ?_⟩, hzero', hnoise⟩
    have h7 : 7 ≤ s.rxCount := Nat.le_of_succ_le_succ h8
    have hne := mt (frameComplete_appendRx_iff h7 b).mpr (by simp [hdone])
    rw [appendRx_rxBuf_getElem (by omega), appendRx_rxCount]
    omega

/-! ## Operations -/

theorem RxInv.rxb {s t : State} {b : Byte} (hinv : RxInv s) (h : exec (.rxb b) s = .next t) : RxInv t := by
  cases hf : s.fstate with
  | hunt =>
    obtain rfl := next_inj ((exec_rxb_of_hunt hf b).symm.trans h)
    exact (hinv.huntByte hf b).congr rfl
  | recv =>
    by_cases ht : 150 < elapsed s
    · obtain rfl := next_inj ((exec_rxb_of_timedOut hf ht b).symm.trans h)
      have hempty : RxInv (timedOutOf s) := rxInv_of_empty rfl rfl rfl rfl hinv.noiseLast_le
      exact (hempty.huntByte rfl b).congr rfl
    · obtain rfl := next_inj ((exec_rxb_of_recv hf (Nat.not_lt.mp ht) b).symm.trans h)
      exact (hinv.recvByte hf b).congr rfl
  | parsing =>
    obtain rfl := next_inj ((exec_rxb_of_parsing hf b).symm.trans h)
    exact hinv.congr rfl

theorem RxInv.tick {s t : State} (hinv : RxInv s) (h : exec .tick s = .next t) : RxInv t := by
  obtain rfl := next_inj ((exec_tick s).symm.trans h)
  split_ifs
  · exact rxInv_of_empty rfl rfl rfl rfl hinv.noiseLast_le
  · exact hinv.congr rfl

/-- PARSE retains a frame that passes Verify and drops one that fails (42_decode.md R168, 41_checksum.md R150). -/
theorem RxInv.parse {s t : State} (hinv : RxInv s) (h : exec .parse s = .next t) : RxInv t := by
  by_cases hp : s.fstate = .parsing
  · obtain ⟨hshape, hzero, hnoise⟩ := hinv
    cases hc : csumMatches s.rxBuf.toList with
    | false =>
      obtain rfl := next_inj ((exec_parse_of_badChecksum hp hc).symm.trans h)
      exact rxInv_of_empty rfl rfl rfl rfl hnoise
    | true =>
      obtain ⟨-, hsof, hmax, hcount⟩ := (rxShape_of_parsing hp).mp hshape
      obtain ⟨u, hu, hside⟩ := exec_parse_rxSide hp hc
      obtain rfl := next_inj (hu.symm.trans h)
      have hheld : RxInv { s with fstate := .hunt, retained := true } :=
        ⟨(rxShape_of_retained rfl rfl).mpr ⟨hsof, hmax, hcount, hc⟩, hzero, hnoise⟩
      exact hheld.congr (s := { s with fstate := .hunt, retained := true }) hside
  · obtain rfl := next_inj ((exec_parse_of_ne_parsing hp).symm.trans h)
    exact hinv.congr rfl

theorem rxInv_reset : RxInv .reset := rxInv_of_empty rfl rfl rfl rfl (by decide)

/-- Every operation keeps the receive invariant. -/
theorem RxInv.exec {i : Instr} {s t : State} (hop : isOperation i = true) (hinv : RxInv s)
    (h : exec i s = .next t) : RxInv t := by
  by_cases hi : isFramerOp i = false
  · obtain ⟨u, hu, hside⟩ := exec_rxSide_of_not_framerOp hop hi s
    obtain rfl := next_inj (hu.symm.trans h)
    exact hinv.congr hside
  · cases i with
    | rxb b => exact hinv.rxb h
    | tick => exact hinv.tick h
    | parse => exact hinv.parse h
    | rxclr =>
      obtain rfl := next_inj h
      exact rxInv_of_empty rfl rfl rfl rfl hinv.noiseLast_le
    | srst =>
      obtain rfl := next_inj h
      exact rxInv_reset.congr rfl
    | _ => exact absurd rfl hi

end Sys2Proof.Machine
end

section
/-! PROOFS. The four invariants, at reset and over every step: O55 to O59; and the 34th byte: O20. -/

namespace Sys2Proof.Proofs.Invariants

open Sys2Proof.Machine

/-- Settles O55: each invariant by its own lemma of the reset state. -/
theorem invariantsHoldAtReset : Obligations.InvariantsHoldAtReset :=
  ⟨rxInv_reset, .inl ⟨rfl, rfl⟩, (acInv_iff _).mpr ⟨smallInv_reset, bigInv_reset⟩, regInv_reset⟩

/-- Settles O56: the sample and an operation error leave the receive side, and each operation keeps its shape. -/
theorem everyStepKeepsTheReceiveInvariant : Obligations.EveryStepKeepsTheReceiveInvariant := fun _ _ =>
  step_keeps (fun _ _ _ hinv => hinv.congr rfl) (fun _ _ _ hop hinv h => hinv.exec hop h)
    (fun _ hinv => hinv.congr rfl)

/-- Settles O57: the transmit side is left, emptied, or filled from empty with a frame the block builds. -/
theorem everyStepKeepsTheTransmitInvariant : Obligations.EveryStepKeepsTheTransmitInvariant := fun _ _ =>
  step_keeps (fun _ _ _ hinv => hinv) (fun _ _ _ _ hinv h => hinv.effect (effect_of_exec h))
    (fun _ hinv => hinv)

/-- Settles O58: a decode writes the registers and LAST_SMALL from one body, and SRST resets them all. -/
theorem everyStepKeepsTheAcInvariant : Obligations.EveryStepKeepsTheAcInvariant := fun _ _ =>
  step_keeps (fun _ _ _ hinv => hinv) (fun _ _ _ _ hinv h => hinv.effect (effect_of_exec h))
    (fun _ hinv => hinv)

/-- Settles O59: events lie in bits 11:0, and each write cuts its value. -/
theorem everyStepKeepsTheRegisterInvariant : Obligations.EveryStepKeepsTheRegisterInvariant := fun _ _ =>
  step_keeps (fun _ _ _ hinv => hinv) (fun _ _ _ _ hinv h => hinv.effect (effect_of_exec h))
    (fun _ hinv => hinv.effect (.errs (i := .nop) .illegal))

/-- Settles O20: with 33 bytes in RECV the frame is open, so L is at least 24, and the 34th byte completes it exactly if
L is 24. -/
theorem thirtyFourthByteOverflowsAboveBody24 : Obligations.ThirtyFourthByteOverflowsAboveBody24 := by
  rintro b s ⟨hshape, -, -⟩ hf ht h33
  obtain ⟨-, -, -, -, hopen⟩ := (rxShape_of_recv hf).mp hshape
  have hleast := hopen (by omega)
  have hdone := frameComplete_appendRx_iff (s := s) (by omega) b
  rw [exec_rxb_of_recv hf ht]
  obtain ⟨hc, e⟩ | ⟨hc, -, e⟩ | ⟨-, hroom, -⟩ := recvByte_cases b s
  · have hlen := hdone.mp hc
    have hstored : appendRx b s = { s with rxBuf := s.rxBuf.setIfInBounds 33 b, rxCount := 34 } := by
      rw [appendRx, h33]
    refine ⟨fun h => by omega, fun _ => ?_⟩
    rw [e, hstored]
    rfl
  · have hlen := mt hdone.mpr (by simp [hc])
    refine ⟨fun _ => ?_, fun h => by omega⟩
    rw [e]
    rfl
  · omega

end Sys2Proof.Proofs.Invariants
end

section
/-! SUPPORT. PARSE of a frame that passes Verify by its written-out outcomes: the pong, the classes it only classifies,
and the two status decodes with their changed flags (42_decode.md R160 to R184). -/

namespace Sys2Proof.Machine

/-! ## Classes in RXBUF -/

/-- PARSE of a held frame runs its class (42_decode.md R160, R161). -/
theorem parsedAs_holds (c : FrameClass) (f : Frame) : parsedAs c f := by
  rintro hfits rfl s
  exact exec_parse_holdFrame hfits s

/-! ## The classes without an effect -/

/-- A class PARSE only classifies leaves its event, its code and the retained frame (42_decode.md R163 to R167). -/
theorem parsed_ignored {c : ParseCode} (h : c.isIgnored = true) (s : State) :
    parsed c id s = ignoredOf c c.number s := by
  have hstatus : s.status ||| 0x0001 ||| 0x0100 = s.status ||| 0x0101 := BitVec.or_assoc _ _ _
  rw [parsed_eq, if_pos h, ignoredOf, ← hstatus]
  rfl

theorem exec_infoSmall_short {f : Frame} (h : f.body.length < 15) (s : State) :
    exec (.infoSmall f) s = .next (parsed .short id s) :=
  if_pos h

theorem exec_infoSmall_long {f : Frame} (h : 15 ≤ f.body.length) (s : State) :
    exec (.infoSmall f) s = .next (parsed .small (decodeSmall f.body) s) :=
  if_neg (Nat.not_lt.mpr h)

/-- INFO.BIG and INFO.PERIODIC mean the same (42_decode.md R180). -/
theorem exec_infoPeriodic_eq (f : Frame) (s : State) : exec (.infoPeriodic f) s = exec (.infoBig f) s := rfl

theorem exec_infoBig_short {f : Frame} (h : f.body.length < 24) (s : State) :
    exec (.infoBig f) s = .next (parsed .short id s) :=
  if_pos h

theorem exec_infoBig_long {f : Frame} (h : 24 ≤ f.body.length) (s : State) :
    exec (.infoBig f) s = .next (parsed .big (decodeBig f.body) s) :=
  if_neg (Nat.not_lt.mpr h)

/-! ## The pong -/

/-- A ping answered: the pong that ENC.PONG builds, and the events (42_decode.md R162). -/
theorem parsed_ping_of_idle {s : State} (h : s.txCount = 0) :
    parsed .ping answerPing s =
      { s with
        txBuf := (buildPong s).txBuf, txCount := (buildPong s).txCount, status := s.status ||| 0x0041
        parseResult := .ping, retained := true, fstate := .hunt, result := 0x0002, tx := none } := by
  have hstatus : s.status ||| 0x0001 ||| 0x0040 = s.status ||| 0x0041 := BitVec.or_assoc _ _ _
  obtain ⟨-, e⟩ | ⟨hq, -⟩ := answerPing_cases (setEvent .frameOk s)
  · rw [parsed_eq, e, ← hstatus, buildPong, buildFrame]
    generalize (builtFrame 0x01 0x01 pongBody).bytes = pong
    rfl
  · exact absurd h hq

/-- A ping whose pong is dropped (42_decode.md R162). -/
theorem parsed_ping_of_queued {s : State} (h : s.txCount ≠ 0) :
    parsed .ping answerPing s =
      { s with
        status := s.status ||| 0x0241, parseResult := .ping, retained := true, fstate := .hunt, result := 0x0002
        tx := none } := by
  have hstatus : s.status ||| 0x0001 ||| 0x0040 ||| 0x0200 = s.status ||| 0x0241 :=
    (congrArg (· ||| 0x0200) (BitVec.or_assoc _ _ _)).trans (BitVec.or_assoc _ _ _)
  obtain ⟨hidle, -⟩ | ⟨-, e⟩ := answerPing_cases (setEvent .frameOk s)
  · exact absurd hidle h
  · rw [parsed_eq, e, ← hstatus]
    rfl

/-! ## The status decodes -/

/-- The events of a status decode: FRAME_OK, and CHANGED where a condition holds (42_decode.md R176, R181). -/
def decodedEvents (changed : Bool) : Half :=
  if changed then 0x0081 else 0x0001

/-- What a small-status decode leaves (42_decode.md R175, R176). -/
theorem parsed_small_eq (b : List Byte) (s : State) :
    parsed .small (decodeSmall b) s =
      { writeSmall b s with
        status := s.status ||| decodedEvents (smallChanged b s), parseResult := .small, retained := true
        fstate := .hunt, result := 0x0004, tx := none } := by
  have hsame : smallChanged b (setEvent .frameOk s) = smallChanged b s := rfl
  have hstatus : s.status ||| 0x0001 ||| 0x0080 = s.status ||| 0x0081 := BitVec.or_assoc _ _ _
  rw [parsed_eq, decodeSmall, hsame]
  cases smallChanged b s with
  | false => rfl
  | true =>
    rw [decodedEvents, if_pos rfl, ← hstatus]
    rfl

/-- What a big-status decode leaves (42_decode.md R180, R181). -/
theorem parsed_big_eq (b : List Byte) (s : State) :
    parsed .big (decodeBig b) s =
      { writeBig b s with
        status := s.status ||| decodedEvents (bigChanged b s), parseResult := .big, retained := true
        fstate := .hunt, result := 0x0005, tx := none } := by
  have hsame : bigChanged b (setEvent .frameOk s) = bigChanged b s := rfl
  have hstatus : s.status ||| 0x0001 ||| 0x0080 = s.status ||| 0x0081 := BitVec.or_assoc _ _ _
  rw [parsed_eq, decodeBig, hsame]
  cases bigChanged b s with
  | false => rfl
  | true =>
    rw [decodedEvents, if_pos rfl, ← hstatus]
    rfl

theorem AcRaw.ext_get {r q : AcRaw} (h : ∀ F, r.get F = q.get F) : r = q := by
  cases r
  cases q
  simp only [AcRaw.mk.injEq]
  exact ⟨h .power, h .mode, h .sleep, h .ifeel, h .vLouver, h .hLouver, h .fanSpeed, h .fanTurbo, h .fanMute,
    h .clean, h .health, h .healthStatus, h .display, h .mildew⟩

/-- The changed flag of a small status: the first one, or a register that differs (42_decode.md R176). -/
theorem smallChanged_iff (b : List Byte) (s : State) :
    smallChanged b s = true ↔
      s.smallValid = false ∨ (writeSmall b s).acTargetTemp ≠ s.acTargetTemp
        ∨ ∃ F, (writeSmall b s).acRaw.get F ≠ s.acRaw.get F := by
  have hraw : rawFields b ≠ s.acRaw ↔ ∃ F, (rawFields b).get F ≠ s.acRaw.get F := by
    rw [← not_forall]
    exact not_congr ⟨fun h F => by rw [h], AcRaw.ext_get⟩
  simp only [smallChanged, Bool.or_eq_true, Bool.not_eq_true', bne_iff_ne, hraw, or_assoc, writeSmall_acTargetTemp,
    writeSmall_acRaw]

/-- The changed flag of a big status (42_decode.md R181). -/
theorem bigChanged_iff (b : List Byte) (s : State) :
    bigChanged b s = true ↔
      s.bigValid = false ∨ (writeBig b s).acAmbient ≠ s.acAmbient ∨ (writeBig b s).acOutdoor ≠ s.acOutdoor := by
  simp only [bigChanged, Bool.or_eq_true, Bool.not_eq_true', bne_iff_ne, or_assoc, writeBig_acAmbient,
    writeBig_acOutdoor]

/-- A register file that holds a body's values sees no change in that body (42_decode.md R184). -/
theorem smallChanged_of_written {b : List Byte} {s t : State} (h : t.smallSide = (writeSmall b s).smallSide) :
    smallChanged b t = false := by
  simp only [State.smallSide, Prod.mk.injEq] at h
  obtain ⟨htarget, hraw, -, hvalid⟩ := h
  simp [smallChanged, htarget, hraw, hvalid]

theorem bigChanged_of_written {b : List Byte} {s t : State} (h : t.bigSide = (writeBig b s).bigSide) :
    bigChanged b t = false := by
  simp only [State.bigSide, Prod.mk.injEq] at h
  obtain ⟨hambient, houtdoor, hvalid⟩ := h
  simp [bigChanged, hambient, houtdoor, hvalid]

/-- A raw-field register after a small-status decode, as the bits of the body it is (42_decode.md R172, R175). -/
theorem rawFields_get_toNat (b : List Byte) (F : RawField) :
    ((rawFields b).get F).toNat =
      (b.getD (Config.layout F).byte 0x00).toNat / 2 ^ (Config.layout F).lo % 2 ^ (Config.layout F).width := by
  obtain ⟨-, -, -, -, hw⟩ := Config.layout_bounds F
  rw [rawFields_get, BitVec.toNat_setWidth_of_le (by decide), getField_toNat _ _ (by omega)]

end Sys2Proof.Machine
end

section
/-! PROOFS. The frame classes: O29 to O33. -/

namespace Sys2Proof.Proofs.Classes

open Sys2Proof.Machine

/-- Settles O29: the answer's two cases, each written out; the pong is the one ENC.PONG builds. -/
theorem pingIsAnsweredOrItsPongDropped : Obligations.PingIsAnsweredOrItsPongDropped := by
  refine fun f s => ⟨fun hidle => ?_, fun hq => congrArg _ (parsed_ping_of_queued hq), parsedAs_holds _ f⟩
  obtain ⟨hq, -⟩ | ⟨-, e⟩ := encodeIdle_cases buildPong s
  · exact absurd hidle hq
  · refine ⟨_, _, congrArg Host.Outcome.next (parsed_ping_of_idle hidle), congrArg Host.Outcome.next e, ?_⟩
    rw [finish_txBuf, finish_txCount]

/-- Settles O30: each class and each short body is `parsed` with a code that is only recorded. -/
theorem ignoredFramesOnlySetTheirCode : Obligations.IgnoredFramesOnlySetTheirCode := by
  intro f s
  have hignored (c : ParseCode) (h : c.isIgnored = true) {i : Instr} (hi : exec i s = .next (parsed c id s)) :
      exec i s = .next (ignoredOf c c.number s) := by rw [hi, parsed_ignored h]
  exact ⟨hignored .cmdDiscard rfl rfl, hignored .setpEcho rfl rfl, hignored .infoUnknown rfl rfl,
    hignored .short rfl rfl, fun h => hignored .short rfl (exec_infoSmall_short h s),
    fun h => ⟨hignored .short rfl (exec_infoBig_short h s), hignored .short rfl (exec_infoBig_short h s)⟩,
    hignored .typeIgnored rfl rfl, hignored .typeIgnored rfl rfl, hignored .typeIgnored rfl rfl,
    fun c _ => parsedAs_holds c f⟩

/-- Settles O31: the decode is written out, and each register of it read as a number. -/
theorem smallStatusIsDecoded : Obligations.SmallStatusIsDecoded := by
  intro f s hlen
  have hevents := smallChanged_iff f.body s
  obtain ⟨hmin, hmax⟩ := targetTenths_bounds f.body
  refine ⟨parsedAs_holds _ f, _, (exec_infoSmall_long hlen s).trans (congrArg _ (parsed_small_eq f.body s)),
    ?_, ?_, ?_, rawFields_get_toNat f.body, fun k hk => ?_, fun hch => ?_, fun hsame => ?_, rfl⟩
  · exact (targetTenths_toNat f.body).trans (targetTenths_eq f.body)
  · exact (targetTenths_toNat f.body).symm ▸ hmin
  · exact (targetTenths_toNat f.body).symm ▸ hmax
  · exact Vector.getElem_ofFn hk
  · show s.status ||| decodedEvents (smallChanged f.body s) = _
    rw [hevents.mpr hch]
    rfl
  · show s.status ||| decodedEvents (smallChanged f.body s) = _
    rw [Bool.eq_false_iff.mpr (mt hevents.mp hsame)]
    rfl

/-- Settles O32: both classes run the same decode. -/
theorem bigStatusIsDecoded : Obligations.BigStatusIsDecoded := by
  intro f s hlen
  have hevents := bigChanged_iff f.body s
  have hexec := (exec_infoBig_long hlen s).trans (congrArg _ (parsed_big_eq f.body s))
  refine ⟨parsedAs_holds _ f, parsedAs_holds _ f, _, hexec, (exec_infoPeriodic_eq f s).trans hexec,
    ambientTenths_toInt f.body, outdoorTenths_toInt f.body, fun hch => ?_, fun hsame => ?_, rfl⟩
  · show s.status ||| decodedEvents (bigChanged f.body s) = _
    rw [hevents.mpr hch]
    rfl
  · show s.status ||| decodedEvents (bigChanged f.body s) = _
    rw [Bool.eq_false_iff.mpr (mt hevents.mp hsame)]
    rfl

/-- Settles O33: after the first decode the registers hold the body's values. -/
theorem secondDecodeReportsNoChange : Obligations.SecondDecodeReportsNoChange := by
  intro f s t d
  have hbig (hlen : 24 ≤ f.body.length) (h : exec (.infoBig f) s = .next t) :
      ∃ u, exec (.infoBig f) { t with status := d } = .next u ∧ u.status = d ||| 0x0001 := by
    have ht := next_inj ((exec_infoBig_long hlen s).symm.trans h)
    obtain ⟨-, hside⟩ := ht ▸ parsed_decodeBig_sides f.body s
    have hsame : bigChanged f.body { t with status := d } = false := bigChanged_of_written (s := s) hside
    refine ⟨_, (exec_infoBig_long hlen _).trans (congrArg _ (parsed_big_eq f.body _)), ?_⟩
    rw [hsame]
    rfl
  refine ⟨fun hlen h => ?_, hbig, hbig⟩
  have ht := next_inj ((exec_infoSmall_long hlen s).symm.trans h)
  obtain ⟨hside, -⟩ := ht ▸ parsed_decodeSmall_sides f.body s
  have hsame : smallChanged f.body { t with status := d } = false := smallChanged_of_written (s := s) hside
  refine ⟨_, (exec_infoSmall_long hlen _).trans (congrArg _ (parsed_small_eq f.body _)), ?_⟩
  rw [hsame]
  rfl

end Sys2Proof.Proofs.Classes
end

section
/-! SUPPORT. A complete frame in RXBUF: the bytes RX_COUNT spans decode exactly if Verify passes, to the class PARSE
runs; and what every PARSE that passes Verify leaves (42_decode.md R160, R161; 41_checksum.md R150). -/

namespace Sys2Proof.Machine

/-! ## Bytes cut after the frame -/

theorem getD_take {bytes : List Byte} {i n : Nat} (h : i < n) : (bytes.take n).getD i 0x00 = bytes.getD i 0x00 := by
  rw [List.getD_eq_getElem?_getD, List.getElem?_take_of_lt h, ← List.getD_eq_getElem?_getD]

theorem bodyLen_take {bytes : List Byte} {n : Nat} (h : 6 < n) : bodyLen (bytes.take n) = bodyLen bytes := by
  rw [bodyLen, getD_take h, bodyLen]

/-- Verify reads no byte after the checksum (41_checksum.md R150). -/
theorem csumMatches_take {bytes : List Byte} {n : Nat} (h : 10 + bodyLen bytes ≤ n) :
    csumMatches (bytes.take n) = csumMatches bytes := by
  have hcontent : (bytes.take n).take (Config.hdrLen + bodyLen bytes) = bytes.take (Config.hdrLen + bodyLen bytes) := by
    rw [List.take_take, Nat.min_eq_left (by simp only [Config.hdrLen]; omega)]
  rw [csumMatches, bodyLen_take (by omega), hcontent, getD_take (by simp only [Config.hdrLen]; omega),
    getD_take (by simp only [Config.hdrLen]; omega), csumMatches]

/-- Nor does PARSE read one of its frame (30_encoding.md R90). -/
theorem ofBytes_take {bytes : List Byte} {n : Nat} (h : 10 + bodyLen bytes ≤ n) :
    Frame.ofBytes (bytes.take n) = Frame.ofBytes bytes := by
  have hbody : ((bytes.take n).drop Config.hdrLen).take (bodyLen bytes)
      = (bytes.drop Config.hdrLen).take (bodyLen bytes) := by
    rw [List.drop_take, List.take_take, Nat.min_eq_left (by simp only [Config.hdrLen]; omega)]
  rw [Frame.ofBytes, bodyLen_take (by omega), hbody, getD_take (by omega), getD_take (by omega), getD_take (by omega),
    getD_take (by omega), getD_take (by omega), getD_take (by omega), Frame.ofBytes]

/-- Of a sequence that is a frame but for its checksum, the checksum decides (30_encoding.md R90 to R94). -/
theorem decodeFrame_of_complete {bytes : List Byte} (hsof : bytes.getD 0 0x00 = Config.sof)
    (hmax : bodyLen bytes ≤ Config.maxBody) (hlen : bytes.length = 10 + bodyLen bytes) :
    decodeFrame bytes =
      if csumMatches bytes = false then .error .badChecksum
      else .ok ((Frame.ofBytes bytes).classOf.instr (Frame.ofBytes bytes)) := by
  rw [decodeFrame, if_neg (not_not_intro hsof), if_neg (Nat.not_lt.mpr hmax),
    if_neg (not_not_intro (by rw [hlen, Config.hdrLen, Config.csumLen]; omega))]

/-! ## RXBUF -/

theorem rxBuf_getD (s : State) {i : Nat} (h : i < 34) : s.rxBuf.toList.getD i 0x00 = s.rxBuf[i] := by
  rw [List.getD_eq_getElem _ _ (by simpa using h), Vector.getElem_toList]

/-- The bytes of a complete frame in RXBUF decode exactly if Verify passes, to what PARSE runs. -/
theorem decodeFrame_rxBuf {s : State} (hinv : RxInv s) (hp : s.fstate = .parsing) :
    decodeFrame (s.rxBuf.toList.take s.rxCount) =
      if csumMatches s.rxBuf.toList = false then .error .badChecksum
      else .ok ((rxFrame s).classOf.instr (rxFrame s)) := by
  obtain ⟨hshape, -, -⟩ := hinv
  obtain ⟨-, hsof, hmax, hcount⟩ := (rxShape_of_parsing hp).mp hshape
  have hlen : bodyLen s.rxBuf.toList = (s.rxBuf[6]).toNat := congrArg BitVec.toNat (rxBuf_getD s (by decide))
  have hspan : 10 + bodyLen s.rxBuf.toList ≤ s.rxCount := by omega
  rw [decodeFrame_of_complete, csumMatches_take hspan, ofBytes_take hspan, rxFrame]
  · rw [getD_take (by omega), rxBuf_getD s (by decide), hsof]
    rfl
  · rw [bodyLen_take (by omega), hlen]
    exact hmax
  · rw [bodyLen_take (by omega), List.length_take, Vector.length_toList, hlen, hcount]
    exact Nat.min_eq_left (by simp only [Config.cap]; omega)

/-! ## What a PARSE leaves -/

/-- Every code of a frame that passed Verify says so (10_state.md R34). -/
theorem ClassOutcome.code_ne {k : FrameClass} {f : Frame} {c : ParseCode} {effect : State → State}
    (h : ClassOutcome k f c effect) : c ≠ .none ∧ c ≠ .csumBad := by
  cases h with
  | pings | decodesSmall | decodesBig => simp
  | ignores _ _ _ ignored => refine ⟨?_, ?_⟩ <;> rintro rfl <;> cases ignored

/-- What the end of PARSE leaves whatever the class (42_decode.md R160, R168). -/
theorem parsed_end (c : ParseCode) (effect : State → State) (s : State) :
    (parsed c effect s).fstate = .hunt ∧ (parsed c effect s).retained = true
      ∧ (parsed c effect s).parseResult = c ∧ (parsed c effect s).result = c.number := by
  rw [parsed_eq]
  exact ⟨rfl, rfl, rfl, rfl⟩

/-- FRAME_OK is set by every PARSE that passes Verify (41_checksum.md R150). -/
theorem ClassOutcome.parsed_frameOk {k : FrameClass} {f : Frame} {c : ParseCode} {effect : State → State}
    (h : ClassOutcome k f c effect) (s : State) : (parsed c effect s).status.getLsbD 0 = true := by
  refine (h.eventsSet_parsed s).getLsbD ?_
  rw [setEvent_status, BitVec.getLsbD_or, Bool.or_eq_true]
  exact .inr rfl

end Sys2Proof.Machine
end

section
/-! PROOFS. PARSE of the frame in RXBUF: O27. -/

namespace Sys2Proof.Proofs.Parse

open Sys2Proof.Machine

/-- Settles O27: on a reachable receive side the checksum alone decides whether the bytes decode, and PARSE runs the
class they decode to. -/
theorem parseVerifiesThenRunsTheFrame : Obligations.ParseVerifiesThenRunsTheFrame := by
  intro s hinv hp
  have hdecode := decodeFrame_rxBuf hinv hp
  cases hc : csumMatches s.rxBuf.toList with
  | false =>
    rw [hc, if_pos rfl] at hdecode
    rw [hdecode]
    refine ⟨fun i h => by (cases h), fun e h => ⟨(Except.error.inj h).symm, ?_⟩⟩
    exact exec_parse_of_badChecksum hp hc
  | true =>
    rw [hc, if_neg (by decide)] at hdecode
    rw [hdecode]
    refine ⟨fun i h => ?_, fun e h => by (cases h)⟩
    obtain rfl := Except.ok.inj h
    obtain ⟨t, ht, hside⟩ := exec_parse_rxSide hp hc
    obtain ⟨c, effect, hout, hexec⟩ := exec_instr (rxFrame s).classOf (rxFrame s)
    have hparse : exec .parse s = exec ((rxFrame s).classOf.instr (rxFrame s)) s := by
      obtain ⟨hn, -⟩ | ⟨-, hbad, -⟩ | ⟨-, -, e⟩ := execParse_cases s
      · exact absurd hp hn
      · cases hc.symm.trans hbad
      · exact e.trans (dispatchFrame_eq_exec _ s)
    obtain rfl := next_inj (((hexec s).symm.trans hparse.symm).trans ht)
    obtain ⟨hf, hr, hcode, hresult⟩ := parsed_end c effect s
    refine ⟨_, ht, hexec s, hf, hr, congrArg RxSide.rxBuf hside, congrArg RxSide.rxCount hside,
      hout.parsed_frameOk s, ?_⟩
    rw [hcode]
    exact ⟨hresult, hout.code_ne⟩

end Sys2Proof.Proofs.Parse
end

section
/-! SUPPORT. The bits of STATUS and IRQ_EN that `irq` looks at (60_exceptions.md R246). -/

namespace Sys2Proof.Machine

/-- The event bits are bits 11:0 (10_state.md R30). -/
theorem eventBits_getLsbD : ∀ k < 16, eventBits.getLsbD k = decide (k < 12) := by decide

/-- A register value is not 0 exactly if one of its bits is 1. -/
theorem ne_zero_iff_getLsbD (x : Half) : x ≠ 0 ↔ ∃ k < 16, x.getLsbD k = true := by
  constructor
  · intro hx
    by_contra hnone
    refine hx (BitVec.eq_of_getLsbD_eq fun k hk => ?_)
    have hbit : x.getLsbD k = false := Bool.eq_false_iff.mpr fun hk1 => hnone ⟨k, hk, hk1⟩
    rw [hbit]
    exact BitVec.getLsbD_zero.symm
  · rintro ⟨k, -, hk⟩ rfl
    exact absurd (BitVec.getLsbD_zero.symm.trans hk) (by decide)

end Sys2Proof.Machine
end

section
/-! PROOFS. What every instruction keeps, and the interrupt: O34, O36, O37 and O44. -/

namespace Sys2Proof.Proofs.Frames

open Sys2Proof.Machine

/-- Settles O34: only a decode, whose code is its own, and SRST touch the AC state. -/
theorem onlyStatusDecodesWriteAcState : Obligations.OnlyStatusDecodesWriteAcState := by
  intro i s t h hi
  have small (hside : t.smallSide = s.smallSide) : t.acTargetTemp = s.acTargetTemp ∧ t.acRaw = s.acRaw
      ∧ t.lastSmall = s.lastSmall ∧ t.smallValid = s.smallValid := by
    simpa only [State.smallSide, Prod.mk.injEq] using hside
  have big (hside : t.bigSide = s.bigSide) : t.acAmbient = s.acAmbient ∧ t.acOutdoor = s.acOutdoor
      ∧ t.bigValid = s.bigValid := by
    simpa only [State.bigSide, Prod.mk.injEq] using hside
  obtain ⟨hs, hb⟩ | ⟨hsrst, -⟩ | ⟨f, -, hruns, rfl⟩ | ⟨k, f, hk, -, hruns, rfl⟩ := (effect_of_exec h).ac_cases
  · exact ⟨.inl (small hs), .inl (big hb)⟩
  · exact absurd hsrst hi
  · obtain ⟨-, -, hcode, hresult⟩ := parsed_end .small (decodeSmall f.body) s
    obtain ⟨-, hb⟩ := parsed_decodeSmall_sides f.body s
    exact ⟨.inr ⟨hcode, hresult, hruns.imp_left fun e => ⟨f, e⟩⟩, .inl (big hb)⟩
  · obtain ⟨-, -, hcode, hresult⟩ := parsed_end .big (decodeBig f.body) s
    obtain ⟨hs, -⟩ := parsed_decodeBig_sides f.body s
    refine ⟨.inl (small hs), .inr ⟨hcode, hresult, hruns.imp_left fun e => ⟨f, ?_⟩⟩⟩
    obtain rfl | rfl := hk
    · exact .inl e
    · exact .inr e

/-- Settles O36: but for a WR of STATUS and SRST, events are only set. -/
theorem statusBitsStayUntilCleared : Obligations.StatusBitsStayUntilCleared := by
  intro i s t h hsrst hwr k hk
  obtain hset | ⟨d, hi, -⟩ | ⟨hi, -⟩ := (effect_of_exec h).status_cases
  · exact hset.getLsbD hk
  · exact absurd hi (hwr d)
  · exact absurd hi hsrst

/-- Settles O37: `irq` is whether the enabled events are not all 0, bit by bit. -/
theorem irqIsTheLevelOfEnabledEvents : Obligations.IrqIsTheLevelOfEnabledEvents := by
  intro s
  rw [State.irq, bne_iff_ne, ne_zero_iff_getLsbD]
  refine exists_congr fun k => ⟨fun ⟨hk, hbits⟩ => ?_, fun ⟨hk, hs, he⟩ => ?_⟩
  · rw [BitVec.getLsbD_and, BitVec.getLsbD_and, eventBits_getLsbD k hk, Bool.and_eq_true, Bool.and_eq_true,
      decide_eq_true_eq] at hbits
    obtain ⟨⟨hs, he⟩, h12⟩ := hbits
    exact ⟨h12, hs, he⟩
  · have h16 : k < 16 := by omega
    rw [BitVec.getLsbD_and, BitVec.getLsbD_and, eventBits_getLsbD k h16, hs, he]
    exact ⟨h16, decide_eq_true hk⟩

/-- Settles O44: every other kind of next state has no `tx` event. -/
theorem onlyAnIdleTxsendEmits : Obligations.OnlyAnIdleTxsendEmits := by
  intro i s t bytes h htx
  obtain hnone | ⟨hi, hq, hf, hr, hsome⟩ := (effect_of_exec h).tx_cases
  · cases hnone.symm.trans htx
  · exact ⟨hi, hq, hf, hr, Option.some.inj (htx.symm.trans hsome)⟩

end Sys2Proof.Proofs.Frames
end

section
/-! SUPPORT. The checksum of two sequences that differ: what a byte weighs in the accumulator, what a flipped bit does
to it, and when the folds of two accumulators agree (41_checksum.md R141 to R154). -/

namespace Sys2Proof.Machine

/-! ## The accumulator -/

/-- What a byte at an index weighs in the accumulator: the first byte of a word is its high one (41_checksum.md
R141). -/
def byteWeight (i : Nat) : Nat :=
  if i % 2 = 0 then 256 else 1

/-- Replacing a byte changes the accumulator by that byte's weight. -/
theorem wordSum_set (xs : List Byte) {i : Nat} (h : i < xs.length) (v : Byte) :
    wordSum (xs.set i v) + xs[i].toNat * byteWeight i = wordSum xs + v.toNat * byteWeight i := by
  induction xs using wordSum.induct generalizing i with
  | case1 => simp at h
  | case2 a =>
    obtain rfl : i = 0 := Nat.lt_one_iff.mp h
    simp only [List.set_cons_zero, wordSum_one, List.getElem_cons_zero, byteWeight, Nat.zero_mod, if_true]
    omega
  | case3 a b rest ih =>
    match i with
    | 0 =>
      simp only [List.set_cons_zero, wordSum_pair, List.getElem_cons_zero, byteWeight, Nat.zero_mod, if_true]
      omega
    | 1 =>
      simp only [List.set_cons_succ, List.set_cons_zero, wordSum_pair, List.getElem_cons_succ,
        List.getElem_cons_zero, byteWeight, Nat.reduceMod, if_neg Nat.one_ne_zero]
      omega
    | j + 2 =>
      have hj : j < rest.length := by simpa using h
      have hweight : byteWeight (j + 2) = byteWeight j := by rw [byteWeight, Nat.add_mod_right, byteWeight]
      have hrest := ih hj
      simp only [List.set_cons_succ, wordSum_pair, List.getElem_cons_succ, hweight]
      omega

/-- A flipped bit changes a byte, by at most 128: checked over the 8 bits of the 256 bytes. -/
theorem flipBit_toNat : ∀ k < 8, ∀ x : Byte,
    let y := x ^^^ (1#8 <<< k)
    y.toNat ≠ x.toNat ∧ y.toNat ≤ x.toNat + 128 ∧ x.toNat ≤ y.toNat + 128 := by
  decide

theorem wordSum_lt {xs : List Byte} (h : xs.length ≤ 32) : wordSum xs < 0x100000 := by
  have := wordSum_le xs
  omega

/-! ## The folds -/

theorem foldOnce_eq {acc : Nat} (h : acc < 0x100000) : foldOnce acc = acc / 65536 + acc % 65536 := by
  rw [foldOnce, Nat.mod_eq_of_lt (by omega)]

theorem foldLoop_of_le {f : Nat} (h : f ≤ 0xFFFF) (fuel : Nat) : foldLoop fuel f = f := by
  cases fuel with
  | zero => rfl
  | succ n => exact if_neg (Nat.not_lt.mpr h)

/-- The iterated fold is the single one where that one fits 16 bits; elsewhere it folds the one carry in, for the
accumulators of at most 32 bytes (41_checksum.md R143). -/
theorem foldCarry_iterated {acc : Nat} (h : acc < 0x100000) :
    foldCarry .iterated acc = if 0xFFFF < foldOnce acc then foldOnce acc - 0xFFFF else foldOnce acc := by
  have hfold := foldOnce_eq h
  split_ifs with hcarry
  · have hround : foldOnce (foldOnce acc) = foldOnce acc - 0xFFFF := by rw [foldOnce_eq (by omega)]; omega
    rw [foldCarry, foldLoop, if_pos hcarry, hround, foldLoop_of_le (by omega)]
  · exact foldLoop_of_le (Nat.not_lt.mp hcarry) 2

/-- How far apart the single folds of two accumulators are that are at most half of 16 bits apart. -/
theorem foldOnce_near {a b : Nat} (hb : b < 0x100000) (hlt : a < b) (hnear : b ≤ a + 0x8000) :
    (foldOnce a < foldOnce b ∧ foldOnce b ≤ foldOnce a + 0x8000)
      ∨ (foldOnce b + 0x7FFF ≤ foldOnce a ∧ foldOnce a < foldOnce b + 0xFFFF) := by
  rw [foldOnce_eq (by omega : a < 0x100000), foldOnce_eq hb]
  obtain hsame | hnext : b / 65536 = a / 65536 ∨ b / 65536 = a / 65536 + 1 := by omega
  · exact .inl (by omega)
  · exact .inr (by omega)

/-- Accumulators at most half of 16 bits apart, and different, have different folds (41_checksum.md R153). -/
theorem foldCarry_mod_ne {a b : Nat} (hb : b < 0x100000) (hlt : a < b) (hnear : b ≤ a + 0x8000) (mode : CsumFold) :
    foldCarry mode a % 65536 ≠ foldCarry mode b % 65536 := by
  have hfold := foldOnce_near hb hlt hnear
  have hbound (c : Nat) (hc : c < 0x100000) : foldOnce c ≤ 0x1000E := by rw [foldOnce_eq hc]; omega
  have hmaxa := hbound a (by omega)
  have hmaxb := hbound b hb
  cases mode with
  | single =>
    show foldOnce a % 65536 ≠ foldOnce b % 65536
    omega
  | iterated =>
    rw [foldCarry_iterated (by omega), foldCarry_iterated hb]
    split_ifs <;> omega

theorem checksumWith_eq_iff {mode : CsumFold} {xs ys : List Byte} :
    checksumWith mode xs = checksumWith mode ys ↔
      foldCarry mode (wordSum xs) % 65536 = foldCarry mode (wordSum ys) % 65536 := by
  rw [← BitVec.toNat_inj, checksumWith_toNat, checksumWith_toNat]
  omega

end Sys2Proof.Machine
end

section
/-! PROOFS. The checksum function: O22, O23, O25 and O26. -/

namespace Sys2Proof.Proofs.ChecksumFunction

open Sys2Proof.Machine

/-- Settles O22: each checksum is computed. -/
theorem workedChecksums : Obligations.WorkedChecksums := by
  refine ⟨?_, ?_, ?_, ?_, ?_, ?_⟩ <;> decide

/-- Settles O23: the iterated fold takes its second round exactly on a carry, which then changes the low half. -/
theorem foldModesDifferOnlyOnACarry : Obligations.FoldModesDifferOnlyOnACarry := by
  intro xs hlen
  have hfold := foldOnce_eq (wordSum_lt hlen)
  have hbound : foldOnce (wordSum xs) ≤ 0x1FFFE := foldOnce_le _
  rw [← hfold, Ne, ← BitVec.toNat_inj, checksumWith_toNat, checksumWith_toNat, foldCarry_iterated (wordSum_lt hlen),
    foldCarry]
  split_ifs <;> omega

/-- Settles O25: the flipped bit moves the accumulator by 1 to 2^15, which no fold hides. -/
theorem oneFlippedBitChangesTheChecksum : Obligations.OneFlippedBitChangesTheChecksum := by
  intro mode xs i k _ hlen _ hi hk
  rw [List.getD_eq_getElem _ _ hi]
  obtain ⟨hne, hup, hdown⟩ := flipBit_toNat k hk xs[i]
  have hset := wordSum_set xs hi (xs[i] ^^^ (1#8 <<< k))
  have hlt := wordSum_lt hlen
  have hlt' := wordSum_lt (xs := xs.set i (xs[i] ^^^ (1#8 <<< k))) (by rwa [List.length_set])
  rw [Ne, checksumWith_eq_iff]
  generalize xs[i] ^^^ (1#8 <<< k) = v at *
  have hdist : wordSum (xs.set i v) ≠ wordSum xs ∧ wordSum (xs.set i v) ≤ wordSum xs + 0x8000
      ∧ wordSum xs ≤ wordSum (xs.set i v) + 0x8000 := by
    unfold byteWeight at hset
    split_ifs at hset <;> omega
  obtain ⟨hdiff, hle, hge⟩ := hdist
  obtain hlow | hhigh := Nat.lt_or_gt_of_ne hdiff
  · exact foldCarry_mod_ne hlt hlow hge mode
  · exact (foldCarry_mod_ne hlt' hhigh hle mode).symm

/-- Settles O26: the accumulator adds its words in any order, and weighs the two bytes of a word differently. -/
theorem wordOrderDoesNotMatter : Obligations.WordOrderDoesNotMatter := by
  intro mode pre mid post a b c d hpre hmid
  have hword (x y : Byte) : (pre ++ [x, y]).length % 2 = 0 := by
    rw [List.length_append, Nat.add_mod, hpre, Nat.zero_add, Nat.mod_mod]
    exact Nat.mod_self 2
  have hone (x y : Byte) (rest : List Byte) :
      wordSum (pre ++ [x, y] ++ rest) = wordSum pre + wordSum [x, y] + wordSum rest := by
    rw [wordSum_append _ _ (hword x y), wordSum_append _ _ hpre]
  have htwo (w x y z : Byte) : wordSum (pre ++ [w, x] ++ mid ++ [y, z] ++ post)
      = wordSum pre + wordSum [w, x] + (wordSum mid + (wordSum [y, z] + wordSum post)) := by
    rw [List.append_assoc _ _ post, List.append_assoc _ mid, hone, wordSum_append _ _ hmid,
      wordSum_append [y, z] post (Nat.mod_self 2)]
  constructor
  · have hswap : wordSum (pre ++ [a, b] ++ mid ++ [c, d] ++ post)
        = wordSum (pre ++ [c, d] ++ mid ++ [a, b] ++ post) := by
      rw [htwo, htwo]
      omega
    rw [checksumWith_eq_iff, hswap]
  · rw [hone, hone, ← BitVec.toNat_inj]
    simp only [wordSum_pair, wordSum_nil]
    omega

end Sys2Proof.Proofs.ChecksumFunction
end

section
/-! SUPPORT. The set-params body read back as a small status: its place in the queued frame, its fields behind the code
bytes, and its target temperature (43_encode_transmit.md R197, R202). -/

namespace Sys2Proof.Machine

/-! ## The target temperature -/

/-- A temperature put into a body is read from it rounded down to the half degree (43_encode_transmit.md R197). -/
theorem targetTenths_putTarget {t : Nat} (hmin : 80 ≤ t) (hmax : t < 400) {b : List Byte} (hb : b.length = 15) :
    targetTenths (putTarget t b) = t / 5 * 5 := by
  rw [targetTenths, putTarget_ttInt (by omega) hb, putTarget_ttHalf t hb]
  split_ifs <;> omega

/-- A requested target temperature is read back clamped and rounded down (43_encode_transmit.md R202). -/
theorem targetTenths_applyTarget {d : Half} (h : d.getLsbD 15 = true) {b : List Byte} (hb : b.length = 15) :
    targetTenths (applyTarget d b) = min (max (d.toNat % 32768) 160) 320 / 5 * 5 := by
  rw [applyTarget, if_pos h, clampedTenths_eq]
  exact targetTenths_putTarget (by omega) (by omega) hb

/-- With none requested, LAST_SMALL's target temperature is read back. -/
theorem targetTenths_setcBody_of_no_target {s : State} (h : s.cmdTargetTemp.getLsbD 15 = false) :
    targetTenths (setcBody s) = targetTenths (lastBody s) := by
  obtain ⟨hint, hhalf⟩ := setcBody_no_target h
  rw [targetTenths_eq, targetTenths_eq, hint, hhalf, lastBody_getD s (j := 0) (by decide),
    lastBody_getD s (j := 3) (by decide)]

/-! ## Behind the code bytes -/

/-- Another echo byte changes no field of a body (42_decode.md R170). -/
theorem getField_set_echo (b : List Byte) (v : Byte) {p : FieldPos} (h : 2 ≤ p.byte) :
    getField (b.set 1 v) p = getField b p := by
  refine getField_congr ?_
  rw [List.getD_eq_getElem?_getD, List.getElem?_set_ne (by omega), ← List.getD_eq_getElem?_getD]

theorem targetTenths_set_echo (b : List Byte) (v : Byte) : targetTenths (b.set 1 v) = targetTenths b := by
  rw [targetTenths, getField_set_echo b v (by decide), getField_set_echo b v (by decide), targetTenths]

theorem rawFields_set_echo (b : List Byte) (v : Byte) : rawFields (b.set 1 v) = rawFields b := by
  refine AcRaw.ext_get fun f => ?_
  obtain ⟨h, -⟩ := Config.layout_bounds f
  rw [rawFields_get, rawFields_get, getField_set_echo b v h]

/-! ## The queued frame -/

/-- The body stands behind the 8 header bytes (30_encoding.md R90). -/
theorem frame_body (f : Frame) : (f.bytes.drop 8).take f.body.length = f.body := by
  show (f.body ++ _).take f.body.length = f.body
  exact List.take_left

/-- What an ENC operation queues is the frame it builds. -/
theorem queuedBytes_of_blit {s : State} {buf : Buf} {bytes : List Byte} (hbuf : s.txBuf = blit buf 0 bytes)
    (hcount : s.txCount = bytes.length) (h34 : bytes.length ≤ 34) : queuedBytes s = bytes := by
  rw [queuedBytes, hbuf, hcount, blit_toList_take buf h34]

end Sys2Proof.Machine
end

section
/-! PROOFS. The set-params round trip: O41 and O42; the override addresses: O49. -/

namespace Sys2Proof.Proofs.RoundTrip

open Sys2Proof.Machine

/-- Settles O41: the clamped request is put by its tens and its half, and read back from them. -/
theorem targetTemperatureIsClampedAndRoundedDown : Obligations.TargetTemperatureIsClampedAndRoundedDown := by
  intro b d hb hd
  rw [targetTenths_applyTarget hd hb]
  exact ⟨rfl, by omega⟩

/-- Settles O42: the queued body is `setcBody`, whose fields the echo byte does not touch. -/
theorem setParamsRoundTrip : Obligations.SetParamsRoundTrip := by
  rintro s u hdr ⟨hraw, htarget, -⟩ hidle hvalid
  have hlen : ((setcBody s).set 1 0x11).length = 15 := by rw [List.length_set, setcBody_length]
  have hframe := setcFrame_length s
  have hget (f : RawField) :
      ((rawFields (setcBody s)).get f).toNat = (getField (setcBody s) (Config.layout f)).toNat := by
    rw [rawFields_get]
    exact BitVec.toNat_setWidth_of_le (by decide)
  refine ⟨_, parsed .small (decodeSmall ((setcBody s).set 1 0x11)) u, exec_encSetc_of_idle hidle hvalid, ?_, ?_⟩
  · rw [queuedBytes_of_blit rfl hframe.symm (by omega)]
    have hbody := frame_body (builtFrame 0x06 0x00 (setcBody s))
    rw [builtFrame, setcBody_length] at hbody
    rw [builtFrame, hbody]
    exact exec_infoSmall_long (f := { hdr with body := (setcBody s).set 1 0x11 }) hlen.ge u
  · rw [parsed_small_eq]
    refine ⟨rfl, fun F => ?_, ?_, ?_⟩
    · show ((rawFields _).get F.raw).toNat = _
      rw [rawFields_set_echo, hget, getField_setcBody_cmd_toNat, hraw]
    · show (rawFields _).get .healthStatus = s.acRaw.get .healthStatus
      rw [← BitVec.toNat_inj, rawFields_set_echo, hget, getField_setcBody_healthStatus, hraw]
    · show (BitVec.ofNat 16 (targetTenths _)).toNat = _
      rw [targetTenths_toNat, targetTenths_set_echo]
      split_ifs with ht
      · exact targetTenths_applyTarget ht (by simp)
      · rw [targetTenths_setcBody_of_no_target (Bool.eq_false_iff.mpr ht), htarget hvalid]

/-- Settles O49: the mirrored address is the override register's own. -/
theorem overrideAddressesMirrorTheAcAddresses : Obligations.OverrideAddressesMirrorTheAcAddresses :=
  ⟨fun F => regAt_addr (.cmd F), by decide, rfl, rfl, rfl⟩

end Sys2Proof.Proofs.RoundTrip
end

section
/-! SUPPORT. A frame delivered byte by byte: the receive side between two of its bytes, what each operation of a run
does to it, and the complete frame after the last byte (40_framer.md R116, R118, R124). -/

namespace Sys2Proof.Machine

/-! ## The bytes of a run -/

theorem deliveredBytes_cons_rxb (b : Byte) (now : Word) (ops : List (Instr × Word)) :
    deliveredBytes ((.rxb b, now) :: ops) = b :: deliveredBytes ops := rfl

theorem deliveredBytes_cons_other {i : Instr} (h : ∀ b, i ≠ .rxb b) (now : Word) (ops : List (Instr × Word)) :
    deliveredBytes ((i, now) :: ops) = deliveredBytes ops := by
  cases i with
  | rxb b => exact absurd rfl (h b)
  | _ => rfl

/-- A run that ends with an RXB delivers a byte. -/
theorem deliveredBytes_ne_nil {ops : List (Instr × Word)} {b : Byte} {now : Word}
    (h : ops.getLast? = some (.rxb b, now)) : deliveredBytes ops ≠ [] :=
  List.ne_nil_of_mem (List.mem_filterMap.mpr ⟨_, List.mem_of_getLast? h, rfl⟩)

/-- A buffer with one byte more written is the buffer with that byte stored behind the others. -/
theorem blit_snoc (buf : Buf) (pos : Nat) (bs : List Byte) (b : Byte) :
    blit buf pos (bs ++ [b]) = (blit buf pos bs).setIfInBounds (pos + bs.length) b := by
  induction bs generalizing buf pos with
  | nil => rfl
  | cons c cs ih => rw [List.cons_append, blit, ih, blit, List.length_cons, Nat.add_assoc, Nat.add_comm 1]

/-! ## Between two bytes -/

/-- The receive side with the first bytes of a frame stored, the first of them at this time (40_framer.md R116,
R118). -/
structure Receiving (stored : List Byte) (start : Word) (s : State) : Prop where
  fstate   : s.fstate = .recv
  rxBuf    : s.rxBuf = blit zeroBuf 0 stored
  rxCount  : s.rxCount = stored.length
  retained : s.retained = false
  rxStart  : s.rxStart = start

/-- The receive side with a frame complete, its first byte at this time and its last one now (40_framer.md R118). -/
structure Completed (bytes : List Byte) (start : Word) (s : State) : Prop where
  fstate   : s.fstate = .parsing
  rxBuf    : s.rxBuf = blit zeroBuf 0 bytes
  rxCount  : s.rxCount = bytes.length
  retained : s.retained = false
  rxStart  : s.rxStart = start
  rxDone   : s.rxDone = s.now

/-- The start marker in HUNT begins a frame, whatever was hunted before (40_framer.md R116). -/
theorem exec_sof_receiving {s : State} (h : s.fstate = .hunt) :
    ∃ t, exec (.rxb 0xBB) s = .next t ∧ Receiving [0xBB] s.now t := by
  obtain ⟨u, hu, hcases⟩ := huntByte_cases 0xBB s
  have hnow : u.now = s.now := by
    rw [hu]
    split <;> rfl
  obtain ⟨-, e⟩ | ⟨hb, -⟩ | ⟨hb, -⟩ := hcases
  · refine ⟨_, exec_rxb_of_hunt h 0xBB, ?_⟩
    rw [e, startFrame_eq]
    exact ⟨rfl, rfl, rfl, rfl, hnow⟩
  · exact absurd rfl hb
  · exact absurd rfl hb

/-- An operation the framer's table does not name leaves RX_START (10_state.md R25). -/
theorem Effect.rxStart {i : Instr} {s t : State} (h : Effect i s t) (hop : isOperation i = true)
    (hi : isFramerOp i = false) : t.rxStart = s.rxStart := by
  cases h with
  | receives isFramer => cases hi.symm.trans isFramer
  | classifies k f c effect outcome runs =>
    obtain rfl | ⟨rfl, -⟩ := runs
    · cases k <;> cases hop
    · cases hi
  | resets isSrst =>
    subst isSrst
    cases hi
  | _ => rfl

/-- Between two bytes of a frame in time, no operation but RXB, RXCLR and SRST touches the receive side (40_framer.md
R124). -/
theorem Receiving.other {stored : List Byte} {start : Word} {s : State} (h : Receiving stored start s) {i : Instr}
    (hkeeps : keepsReceiving i) (hi : ∀ b, i ≠ .rxb b) (htime : (s.now - start).toNat ≤ 150) :
    ∃ t, exec i s = .next t ∧ Receiving stored start t := by
  obtain ⟨hf, hbuf, hcount, hret, hstart⟩ := h
  obtain ⟨hop, hrxclr, hsrst⟩ := hkeeps
  by_cases hframer : isFramerOp i = false
  · obtain ⟨t, ht, hside⟩ := exec_rxSide_of_not_framerOp hop hframer s
    have hsame := (effect_of_exec ht).rxStart hop hframer
    simp only [State.rxSide, RxSide.mk.injEq] at hside
    obtain ⟨hf', hbuf', hcount', hret', -⟩ := hside
    exact ⟨t, ht, hf'.trans hf, hbuf'.trans hbuf, hcount'.trans hcount, hret'.trans hret, hsame.trans hstart⟩
  · cases i with
    | tick =>
      have hin : ¬ (s.fstate = .recv ∧ 150 < elapsed s) := by
        rw [elapsed_eq, hstart]
        omega
      refine ⟨_, exec_tick s, ?_⟩
      rw [if_neg hin]
      exact ⟨hf, hbuf, hcount, hret, hstart⟩
    | parse => exact ⟨_, exec_parse_of_ne_parsing (by simp [hf]), hf, hbuf, hcount, hret, hstart⟩
    | rxb b => exact absurd rfl (hi b)
    | rxclr => exact absurd rfl hrxclr
    | srst => exact absurd rfl hsrst
    | _ => exact absurd rfl hframer

/-! ## The next byte -/

/-- The length byte of a frame, once it is stored (30_encoding.md R90). -/
theorem blit_lengthByte {stored rest : List Byte} (h7 : 7 ≤ stored.length) :
    ((blit zeroBuf 0 stored)[6]).toNat = bodyLen (stored ++ rest) := by
  rw [blit_getElem_inside (Nat.zero_le 6) (by omega), bodyLen, List.getD_append _ _ _ _ (by omega),
    List.getD_eq_getElem _ _ (by omega)]

/-- A frame's byte in time is stored; the frame is complete with its last byte, and never before (40_framer.md R118). -/
theorem Receiving.rxb {stored rest : List Byte} {start : Word} {s : State} {b : Byte} (h : Receiving stored start s)
    (htime : (s.now - start).toNat ≤ 150) (hmax : bodyLen (stored ++ b :: rest) ≤ 24)
    (hlen : (stored ++ b :: rest).length = 10 + bodyLen (stored ++ b :: rest)) :
    ∃ t, exec (.rxb b) s = .next t
      ∧ (rest = [] → Completed (stored ++ [b]) start t) ∧ (rest ≠ [] → Receiving (stored ++ [b]) start t) := by
  obtain ⟨hf, hbuf, hcount, hret, hstart⟩ := h
  have hbuf' : (appendRx b s).rxBuf = blit zeroBuf 0 (stored ++ [b]) := by
    rw [appendRx_rxBuf, hbuf, hcount, blit_snoc, Nat.zero_add]
  have hcount' : (appendRx b s).rxCount = (stored ++ [b]).length := by
    rw [appendRx_rxCount, hcount, List.length_append, List.length_singleton]
  rw [List.append_cons] at hmax hlen
  have hdone : frameComplete (appendRx b s) = true ↔ rest = [] := by
    rw [List.length_append, ← hcount'] at hlen
    rw [frameComplete_iff, ← List.length_eq_zero_iff]
    by_cases h8 : 8 ≤ (appendRx b s).rxCount
    · have hsix : ((appendRx b s).rxBuf[6]).toNat = bodyLen (stored ++ [b] ++ rest) := by
        simp only [hbuf']
        exact blit_lengthByte (by omega)
      omega
    · omega
  refine ⟨_, exec_rxb_of_recv hf (by rwa [elapsed_eq, hstart]) b, ?_⟩
  obtain ⟨hc, e⟩ | ⟨hc, hfull, e⟩ | ⟨hc, -, e⟩ := recvByte_cases b s <;> rw [e]
  · exact ⟨fun _ => ⟨rfl, hbuf', hcount', hret, hstart, rfl⟩, fun hne => absurd (hdone.mp hc) hne⟩
  · have hne : rest ≠ [] := mt hdone.mpr (by simp [hc])
    have hpos := List.length_pos_iff.mpr hne
    rw [List.length_append, ← hcount', appendRx_rxCount] at hlen
    omega
  · exact ⟨fun hnil => absurd (hdone.mpr hnil) (by simp [hc]), fun _ => ⟨hf, hbuf', hcount', hret, hstart⟩⟩

/-! ## The whole run -/

theorem Receiving.at_now {stored : List Byte} {start : Word} {s : State} (h : Receiving stored start s) (now : Word) :
    Receiving stored start { s with now := now } :=
  ⟨h.fstate, h.rxBuf, h.rxCount, h.retained, h.rxStart⟩

/-- From between two bytes of a frame, the rest of its bytes complete it, whatever the operations between them
(40_framer.md R124). -/
theorem Receiving.runOps {bytes : List Byte} {start : Word} (hmax : bodyLen bytes ≤ 24)
    (hlen : bytes.length = 10 + bodyLen bytes) {ops : List (Instr × Word)}
    (hops : ∀ o ∈ ops, keepsReceiving o.1 ∧ (o.2 - start).toNat ≤ 150) {b : Byte} {now : Word}
    (hlast : ops.getLast? = some (.rxb b, now)) {stored : List Byte} {s : State} (h : Receiving stored start s)
    (hbytes : stored ++ deliveredBytes ops = bytes) : ∃ t, runOps ops s = .next t ∧ Completed bytes start t := by
  induction ops generalizing stored s with
  | nil => cases hlast
  | cons o rest ih =>
    obtain ⟨i, time⟩ := o
    obtain ⟨⟨hkeeps, htime⟩, hrest⟩ := List.forall_mem_cons.mp hops
    have hlast' (hne : rest ≠ []) : rest.getLast? = some (.rxb b, now) := by
      rwa [List.getLast?_cons_of_ne_nil hne] at hlast
    by_cases hi : ∃ c, i = .rxb c
    · obtain ⟨c, rfl⟩ := hi
      rw [deliveredBytes_cons_rxb] at hbytes
      subst hbytes
      obtain ⟨t, ht, hcomplete, hopen⟩ := (h.at_now time).rxb htime hmax hlen
      rw [runOps_cons_of_next ht]
      by_cases hnil : deliveredBytes rest = []
      · obtain rfl : rest = [] := by_contra fun hne => deliveredBytes_ne_nil (hlast' hne) hnil
        exact ⟨t, rfl, hcomplete rfl⟩
      · refine ih hrest (hlast' ?_) (hopen hnil) (List.append_cons _ _ _).symm
        rintro rfl
        exact hnil rfl
    · have hother : ∀ c, i ≠ .rxb c := fun c e => hi ⟨c, e⟩
      rw [deliveredBytes_cons_other hother] at hbytes
      obtain ⟨t, ht, hsame⟩ := (h.at_now time).other hkeeps hother htime
      rw [runOps_cons_of_next ht]
      refine ih hrest (hlast' ?_) hsame hbytes
      rintro rfl
      obtain ⟨rfl, -⟩ := Prod.mk.inj (Option.some.inj hlast)
      exact hother b rfl

/-- A whole frame delivered in HUNT is complete after its last byte (40_framer.md R124). -/
theorem runOps_completes {bytes : List Byte} {start : Word} (hmax : bodyLen bytes ≤ 24)
    (hlen : bytes.length = 10 + bodyLen bytes) {ops : List (Instr × Word)}
    (hops : ∀ o ∈ ops, keepsReceiving o.1 ∧ (o.2 - start).toNat ≤ 150)
    (hhead : ops.head? = some (.rxb 0xBB, start)) {b : Byte} {now : Word}
    (hlast : ops.getLast? = some (.rxb b, now)) (hbytes : deliveredBytes ops = bytes) {s : State}
    (hf : s.fstate = .hunt) : ∃ t, runOps ops s = .next t ∧ Completed bytes start t := by
  obtain ⟨rest, rfl⟩ := List.head?_eq_some_iff.mp hhead
  obtain ⟨-, hrest⟩ := List.forall_mem_cons.mp hops
  obtain ⟨t, ht, hstarted⟩ := exec_sof_receiving (s := { s with now := start }) hf
  rw [runOps_cons_of_next ht]
  rw [deliveredBytes_cons_rxb] at hbytes
  refine hstarted.runOps hmax hlen hrest (b := b) (now := now) ?_ hbytes
  rwa [List.getLast?_cons_of_ne_nil] at hlast
  rintro rfl
  rw [← hbytes] at hlen
  simp only [List.length_singleton, deliveredBytes, List.filterMap_nil] at hlen
  omega

/-! ## A queued frame delivered back -/

/-- A state with a frame complete is one that holds it. -/
theorem Completed.holdFrame_eq {bytes : List Byte} {start : Word} {s : State} (h : Completed bytes start s) :
    holdFrame bytes s = s := by
  rw [holdFrame, ← h.fstate, ← h.rxBuf, ← h.rxCount, ← h.retained]

/-- A run of RXBs delivers the bytes it was made of. -/
theorem deliveredBytes_map_rxb (bytes : List Byte) (now : Word) :
    deliveredBytes (bytes.map fun b => (.rxb b, now)) = bytes := by
  induction bytes with
  | nil => rfl
  | cons b bs ih => rw [List.map_cons, deliveredBytes_cons_rxb, ih]

/-- A frame's bytes delivered at one time to a block in HUNT complete it. -/
theorem runOps_frame {f : Frame} (h : f.fits = true) (now : Word) {s : State} (hf : s.fstate = .hunt) :
    ∃ t, runOps (f.bytes.map fun b => (.rxb b, now)) s = .next t ∧ Completed f.bytes now t := by
  have hlen : bodyLen f.bytes = f.body.length := by
    rw [← List.append_nil f.bytes, bodyLen_bytes_append h]
  have hne : f.bytes ≠ [] := List.cons_ne_nil _ _
  refine runOps_completes (b := f.bytes.getLast hne) (now := now) (hlen.symm ▸ length_le_of_fits h)
    (by rw [hlen, Laws.EncodeShape.bytes_length]) ?_ rfl ?_ (deliveredBytes_map_rxb _ now) hf
  · intro o ho
    obtain ⟨b, -, rfl⟩ := List.mem_map.mp ho
    exact ⟨⟨rfl, by simp, by simp⟩, by simp⟩
  · rw [List.getLast?_map, List.getLast?_eq_getLast_of_ne_nil hne]
    rfl

/-- A queued frame is one that fits: the pong, of 18 bytes, is a ping, and the others are commands
(43_encode_transmit.md R192 to R194, R199). -/
theorem builtBytes.frame {n : Nat} {bytes : List Byte} (h : builtBytes n bytes) :
    ∃ f : Frame, bytes = f.bytes ∧ f.fits = true ∧ f.classOf = if n = 18 then .ping else .command := by
  obtain ⟨rfl, rfl⟩ | ⟨rfl, rfl | rfl⟩ | ⟨rfl, body, hbody, -, rfl⟩ := h
  · exact ⟨_, rfl, rfl, rfl⟩
  · exact ⟨_, rfl, rfl, rfl⟩
  · exact ⟨_, rfl, rfl, rfl⟩
  · exact ⟨_, rfl, decide_eq_true (show body.length ≤ 24 by omega), rfl⟩

end Sys2Proof.Machine
end

section
/-! PROOFS. Frames delivered byte by byte: O21 and O46. -/

namespace Sys2Proof.Proofs.Delivery

open Sys2Proof.Machine

/-- Settles O21: between its first and its last byte the frame's stored part is all the receive side holds. -/
theorem interleavedDeliveryBuildsTheFrame : Obligations.InterleavedDeliveryBuildsTheFrame := by
  rintro bytes ops t0 s hf hmax hlen hbytes hhead ⟨b, t1, hlast⟩ hops
  obtain ⟨t, ht, h⟩ := runOps_completes hmax hlen hops hhead hlast hbytes hf
  exact ⟨t, ht, h.fstate, h.rxBuf, h.rxCount, h.retained, h.rxStart, h.rxDone⟩

/-- Settles O46: the delivered frame is held as PARSE of its class finds it, checksum included. -/
theorem queuedFrameDeliveredBackVerifies : Obligations.QueuedFrameDeliveredBackVerifies := by
  intro s r t0 hinv hq hf
  obtain ⟨hidle, -⟩ | ⟨hbuilt, -⟩ := hinv
  · exact absurd hidle hq
  obtain ⟨f, hbytes, hfits, hclass⟩ := hbuilt.frame
  rw [hbytes]
  obtain ⟨t, ht, hdone⟩ := runOps_frame hfits t0 hf
  have hparse := exec_parse_holdFrame hfits t
  rw [hdone.holdFrame_eq, hclass] at hparse
  split_ifs at hparse ⊢
  · have hout := ClassOutcome.pings f
    obtain ⟨-, -, -, hresult⟩ := parsed_end .ping answerPing t
    exact ⟨t, _, ht, hparse, hresult, hout.parsed_frameOk t⟩
  · have hout := ClassOutcome.ignores .command f .cmdDiscard rfl
    obtain ⟨-, -, -, hresult⟩ := parsed_end .cmdDiscard id t
    exact ⟨t, _, ht, hparse, hresult, hout.parsed_frameOk t⟩

end Sys2Proof.Proofs.Delivery
end
